-- ==== Sys2Proof/Word.lean ====
section
/-! DEFINITION. The bit patterns of the machine (00_scope.md R8, R10): byte, 16-bit value, 32-bit word. -/

namespace Sys2Proof

/-- An 8-bit pattern: an `operand2`, a byte of the binary format, a byte of output. -/
abbrev Byte := BitVec 8

/-- A 16-bit pattern: an element of the operand stack, a variable's value, a slot identifier,
an `operand1` (00_scope.md R8, R11). -/
abbrev Value := BitVec 16

/-- A 32-bit instruction word (00_scope.md R8). -/
abbrev Word := BitVec 32

end Sys2Proof
end

