-- ==== Sys2Proof/Syntax.lean ====
section
/-! DEFINITION. The instruction set: the closed set of 25 opcodes (00_scope.md R2), one constructor per
mnemonic of spec/opcode_table.json (its six further `ILG` rows decode to `ilg`). -/

namespace Sys2Proof

/-- A decoded instruction: an opcode with its two operand fields as bit patterns (30_encoding.md R71, R74,
R78). Every opcode carries both fields, used or ignored (R79), so the round trip R77 can say that
none is lost. -/
inductive Instr where
  /-- `HALT`: terminate with the top of stack, or 0 (R120). -/
  | halt (operand1 : Value) (operand2 : Byte)
  /-- `ILG`: the illegal opcode, ordinal 1 and 25 .. 255 (R76, R121). -/
  | ilg (operand1 : Value) (operand2 : Byte)
  /-- `LEN`: push the depth (R130). -/
  | len (operand1 : Value) (operand2 : Byte)
  /-- `POP`: discard the top (R131). -/
  | pop (operand1 : Value) (operand2 : Byte)
  /-- `PUSH`: push `operand1` (R132). -/
  | push (operand1 : Value) (operand2 : Byte)
  /-- `DUP`: push a copy of the top (R133). -/
  | dup (operand1 : Value) (operand2 : Byte)
  /-- `ADD`: addition (R142). -/
  | add (operand1 : Value) (operand2 : Byte)
  /-- `SUB`: subtraction (R143). -/
  | sub (operand1 : Value) (operand2 : Byte)
  /-- `MUL`: multiplication (R144). -/
  | mul (operand1 : Value) (operand2 : Byte)
  /-- `DIV`: truncating division (R145). -/
  | div (operand1 : Value) (operand2 : Byte)
  /-- `MOD`: remainder (R146). -/
  | mod (operand1 : Value) (operand2 : Byte)
  /-- `CMP`: compare: as SUB (R147). -/
  | cmp (operand1 : Value) (operand2 : Byte)
  /-- `JMP`: jump (R163). -/
  | jmp (operand1 : Value) (operand2 : Byte)
  /-- `JE`: jump if `zero` (R164). -/
  | je (operand1 : Value) (operand2 : Byte)
  /-- `JNE`: jump if not `zero` (R165). -/
  | jne (operand1 : Value) (operand2 : Byte)
  /-- `JG`: jump if `sign` (R166). -/
  | jg (operand1 : Value) (operand2 : Byte)
  /-- `JL`: jump if not `sign` (R167). -/
  | jl (operand1 : Value) (operand2 : Byte)
  /-- `JGE`: jump if `sign` or `zero` (R168). -/
  | jge (operand1 : Value) (operand2 : Byte)
  /-- `JLE`: jump if not `sign`, or `zero` (R169). -/
  | jle (operand1 : Value) (operand2 : Byte)
  /-- `STDIN`: take one input response (R182). -/
  | stdin (operand1 : Value) (operand2 : Byte)
  /-- `STDOUT`: emit one output event, mode `operand2` (R184). -/
  | stdout (operand1 : Value) (operand2 : Byte)
  /-- `LOAD`: push the slot `operand1` of the current frame (R190). -/
  | load (operand1 : Value) (operand2 : Byte)
  /-- `STORE`: pop into the slot `operand1` of the current frame (R191). -/
  | store (operand1 : Value) (operand2 : Byte)
  /-- `CALL`: push a frame and jump (R200). -/
  | call (operand1 : Value) (operand2 : Byte)
  /-- `RETURN`: drop the current frame and resume after its CALL (R201). -/
  | ret (operand1 : Value) (operand2 : Byte)
  deriving DecidableEq, Repr

/-- The `operand1` field of a decoded instruction (30_encoding.md R74). -/
def Instr.operand1 : Instr → Value
  | .halt a _ | .ilg a _ | .len a _ | .pop a _
  | .push a _ | .dup a _ | .add a _ | .sub a _
  | .mul a _ | .div a _ | .mod a _ | .cmp a _
  | .jmp a _ | .je a _ | .jne a _ | .jg a _
  | .jl a _ | .jge a _ | .jle a _ | .stdin a _
  | .stdout a _ | .load a _ | .store a _ | .call a _
  | .ret a _ => a

/-- The `operand2` field of a decoded instruction (30_encoding.md R74). -/
def Instr.operand2 : Instr → Byte
  | .halt _ b | .ilg _ b | .len _ b | .pop _ b
  | .push _ b | .dup _ b | .add _ b | .sub _ b
  | .mul _ b | .div _ b | .mod _ b | .cmp _ b
  | .jmp _ b | .je _ b | .jne _ b | .jg _ b
  | .jl _ b | .jge _ b | .jle _ b | .stdin _ b
  | .stdout _ b | .load _ b | .store _ b | .call _ b
  | .ret _ b => b

/-- The assembler's name of the opcode (30_encoding.md R75, R90). -/
def Instr.mnemonic : Instr → String
  | .halt _ _ => "HALT"
  | .ilg _ _ => "ILG"
  | .len _ _ => "LEN"
  | .pop _ _ => "POP"
  | .push _ _ => "PUSH"
  | .dup _ _ => "DUP"
  | .add _ _ => "ADD"
  | .sub _ _ => "SUB"
  | .mul _ _ => "MUL"
  | .div _ _ => "DIV"
  | .mod _ _ => "MOD"
  | .cmp _ _ => "CMP"
  | .jmp _ _ => "JMP"
  | .je _ _ => "JE"
  | .jne _ _ => "JNE"
  | .jg _ _ => "JG"
  | .jl _ _ => "JL"
  | .jge _ _ => "JGE"
  | .jle _ _ => "JLE"
  | .stdin _ _ => "STDIN"
  | .stdout _ _ => "STDOUT"
  | .load _ _ => "LOAD"
  | .store _ _ => "STORE"
  | .call _ _ => "CALL"
  | .ret _ _ => "RETURN"

end Sys2Proof
end

