-- ==== Sys2Proof/Decode.lean ====
section
/-! DEFINITION. The codec (30_encoding.md R70 to R77): fields of a word, `decode`, `encode`, and the conversion between a word
and its four bytes (20_memory.md R53). -/

namespace Sys2Proof

/-- `ord`, bits 31:24 (30_encoding.md R71). -/
def ordinalField (w : Word) : Byte := w.extractLsb' 24 8

/-- `operand1`, bits 23:8 (30_encoding.md R71, R72). -/
def operand1Field (w : Word) : Value := w.extractLsb' 8 16

/-- `operand2`, bits 7:0 (30_encoding.md R71, R72). -/
def operand2Field (w : Word) : Byte := w.extractLsb' 0 8

/-- `Opc` of 30_encoding.md R74 over the table of R75: the opcode of an ordinal, `ILG` for every ordinal outside
0 .. 24 (R76). -/
def opcodeOf (ord : Nat) (a : Value) (b : Byte) : Instr :=
  match ord with
  | 0 => .halt a b
  | 1 => .ilg a b
  | 2 => .len a b
  | 3 => .pop a b
  | 4 => .push a b
  | 5 => .dup a b
  | 6 => .add a b
  | 7 => .sub a b
  | 8 => .mul a b
  | 9 => .div a b
  | 10 => .mod a b
  | 11 => .cmp a b
  | 12 => .jmp a b
  | 13 => .je a b
  | 14 => .jne a b
  | 15 => .jg a b
  | 16 => .jl a b
  | 17 => .jge a b
  | 18 => .jle a b
  | 19 => .stdin a b
  | 20 => .stdout a b
  | 21 => .load a b
  | 22 => .store a b
  | 23 => .call a b
  | 24 => .ret a b
  | _ => .ilg a b

/-- `decode` (30_encoding.md R74): total; the operand fields are read the same way for every opcode. -/
def decode (w : Word) : Instr :=
  opcodeOf (ordinalField w).toNat (operand1Field w) (operand2Field w)

/-- `Ord` of 30_encoding.md R75. -/
def Instr.ordinal : Instr → Byte
  | .halt _ _ => 0
  | .ilg _ _ => 1
  | .len _ _ => 2
  | .pop _ _ => 3
  | .push _ _ => 4
  | .dup _ _ => 5
  | .add _ _ => 6
  | .sub _ _ => 7
  | .mul _ _ => 8
  | .div _ _ => 9
  | .mod _ _ => 10
  | .cmp _ _ => 11
  | .jmp _ _ => 12
  | .je _ _ => 13
  | .jne _ _ => 14
  | .jg _ _ => 15
  | .jl _ _ => 16
  | .jge _ _ => 17
  | .jle _ _ => 18
  | .stdin _ _ => 19
  | .stdout _ _ => 20
  | .load _ _ => 21
  | .store _ _ => 22
  | .call _ _ => 23
  | .ret _ _ => 24

/-- A word from its three fields, `ord ++ operand1 ++ operand2` (30_encoding.md R71, R73). -/
def packWord (ord : Byte) (a : Value) (b : Byte) : Word := ord ++ a ++ b

/-- `encode` (30_encoding.md R73). -/
def encode (i : Instr) : Word := packWord i.ordinal i.operand1 i.operand2

/-- The four bytes of a word, most significant first. -/
structure WordBytes where
  b0 : Byte
  b1 : Byte
  b2 : Byte
  b3 : Byte
  deriving DecidableEq, Repr

/-- `WordToBytes` (20_memory.md R53): big-endian. -/
def wordToBytes (w : Word) : WordBytes :=
  { b0 := w.extractLsb' 24 8, b1 := w.extractLsb' 16 8, b2 := w.extractLsb' 8 8, b3 := w.extractLsb' 0 8 }

/-- `BytesToWord` (20_memory.md R53): `b0 ++ b1 ++ b2 ++ b3`. -/
def bytesToWord (q : WordBytes) : Word := q.b0 ++ q.b1 ++ q.b2 ++ q.b3

/-- Why bytes give no instruction. -/
inductive DecodeError where
  /-- Fewer than the four bytes of a word (30_encoding.md R70, 20_memory.md R55). Safe: nothing is decoded. -/
  | truncated
  deriving DecidableEq, Repr

/-- The first instruction of a big-endian byte sequence and the bytes after it (20_memory.md R53, R55). -/
def decodeBytes : List Byte → Except DecodeError (Instr × List Byte)
  | b0 :: b1 :: b2 :: b3 :: rest => .ok (decode (bytesToWord { b0 := b0, b1 := b1, b2 := b2, b3 := b3 }), rest)
  | _ => .error .truncated

/-- The instruction the decoder reads from the low `nbits` bits of `w`, every higher bit 0. Every instruction
is one 32-bit word (30_encoding.md R70), so more than 32 bits are no instruction. -/
def decodeTableWord (nbits w : Nat) : Option Instr :=
  if nbits ≤ 32 then some (decode (BitVec.ofNat 32 (w % 2 ^ nbits))) else none

end Sys2Proof
end

