-- ==== Sys2Proof/Machine/Bits.lean ====
section
/-! DEFINITION. The readings of bit patterns as integers and back (00_scope.md R11). -/

namespace Sys2Proof.Machine

/-- `s16(v)`: the two's-complement reading, -32768 .. 32767. -/
def s16 (v : Value) : Int := v.toInt

/-- `u16(v)`: the unsigned reading, 0 .. 65535. -/
def u16 (v : Value) : Nat := v.toNat

/-- `wrap16(z)`: the 16-bit pattern congruent to `z` modulo 65536. -/
def wrap16 (z : Int) : Value := BitVec.ofInt 16 z

/-- `s8(v)`: the two's-complement reading, -128 .. 127. -/
def s8 (v : Byte) : Int := v.toInt

/-- `u8(v)`: the unsigned reading, 0 .. 255. -/
def u8 (v : Byte) : Nat := v.toNat

/-- `wrap8(z)`: the 8-bit pattern congruent to `z` modulo 256. -/
def wrap8 (z : Int) : Byte := BitVec.ofInt 8 z

/-- `v[7:0]`, the low 8 bits of a value (20_memory.md R54, 45_io.md R184). -/
def lowByte (v : Value) : Byte := v.extractLsb' 0 8

end Sys2Proof.Machine
end

