-- ==== Sys2Proof/Config.lean ====
section
/-! DEFINITION. What an implementation fixes: the capacities the spec leaves open (00_scope.md R9). -/

namespace Sys2Proof

/-- The open implementation parameters of 00_scope.md R9. They stand in `State` because the host's step
takes a state only, so every statement about all states is about all capacities
(notes/assumptions/2.md). `PROG_LEN` is the length of the loaded program. -/
structure Params where
  /-- `STACK_DEPTH`: greatest number of elements the operand stack holds (R9, D2). -/
  stackDepth : Nat
  /-- `FRAME_DEPTH`: greatest number of frames, the root frame included (R9, D3). -/
  frameDepth : Nat
  deriving DecidableEq, Repr

/-- The constraints of 00_scope.md R9 on the two capacities. -/
abbrev Params.Allowed (p : Params) : Prop :=
  1 ≤ p.stackDepth ∧ p.stackDepth ≤ 32767 ∧ 1 ≤ p.frameDepth

/-- The bound of 00_scope.md R9 on `PROG_LEN`: 2^31 - 32768. -/
def maxProgLen : Nat := 2147450880

/-- The capacities `State.reset` names. DESIGN CHOICE (notes/assumptions/2.md), unsafe for a claim about
`State.reset` alone: the values 95_test_vectors.md takes where it gives none. -/
def Params.default : Params := { stackDepth := 256, frameDepth := 16 }

end Sys2Proof
end

