-- ==== Sys2Proof/Machine/State.lean ====
section
/-! DEFINITION. The state of the core (10_state.md R20 to R36) as plain data, and its value after reset. -/

namespace Sys2Proof.Machine

/-- Fault kinds (60_exceptions.md R211). -/
inductive FaultKind where
  /-- Executing ordinal 1 or 25 .. 255 (R121). -/
  | illegalOpcode
  /-- Fewer stack elements than the instruction removes or reads (R24). -/
  | stackUnderflow
  /-- `RETURN` with only the root frame (R201). -/
  | callStackUnderflow
  /-- `LOAD` of an unbound slot (R190). -/
  | unknownVariable
  /-- `STDIN` answered by `ParseFail` (R182). -/
  | inputParseFailure
  /-- `DIV` or `MOD` with a zero divisor (R145, R146). -/
  | arithmeticFault
  /-- The loader's: a binary whose length is not a multiple of 4 (R55). Never raised by the core. -/
  | misalignedBinary
  /-- A fetch with `pc` outside the program (R101). -/
  | pcOutOfRange
  /-- A mode operand without a meaning (R81). -/
  | illegalOperand
  /-- A push on a full operand stack (R24). -/
  | stackOverflow
  /-- `CALL` on a full frame stack (R27). -/
  | callStackOverflow
  deriving DecidableEq, Repr

/-- How a run ended (10_state.md R30). -/
inductive RunOutcome where
  /-- `Success(value)`, by `HALT` (R120). -/
  | success (value : Value)
  /-- `Fault(kind, address, instruction)` (60_exceptions.md R212). `instruction` is the raw word at `address`,
  `none` when no word was fetched (D34). -/
  | fault (kind : FaultKind) (address : Int) (instruction : Option Word)
  deriving DecidableEq, Repr

/-- The run state (10_state.md R30). -/
inductive RunState where
  | running
  | terminated (outcome : RunOutcome)
  deriving DecidableEq, Repr

/-- One response of the input channel (45_io.md R180). -/
inductive InResponse where
  | value (v : Value)
  | parseFail
  deriving DecidableEq, Repr

/-- One event of the output channel (45_io.md R183). -/
inductive OutEvent where
  /-- `Dec(v)`, mode 0. -/
  | dec (v : Value)
  /-- `CharNl(c)`, mode 1. -/
  | charNl (c : Byte)
  /-- `Raw(c)`, mode 2. -/
  | raw (c : Byte)
  /-- `Char(c)`, mode 3. -/
  | char (c : Byte)
  deriving DecidableEq, Repr

/-- A frame's variable mapping (10_state.md R28): (slot, value) pairs, slots as their unsigned numbers. An unlisted slot
is unbound. The canonical form is `Memory.wf`. The cells are 16-bit values and not bytes, because no
instruction splits a value (20_memory.md R54; notes/assumptions/9.md). -/
abbrev Memory := List (Nat × Value)

/-- A frame made by `CALL` (10_state.md R28, R29): its variables and the address of that `CALL`. Its
`ra_valid` is 1; the root frame, the only one whose `ra_valid` is 0, is `State.rootVars`
(notes/assumptions/4.md). -/
structure Frame where
  vars : Memory
  ra : Int
  deriving DecidableEq, Repr

/-- Faults in the sense of `Host.Outcome`: none. A fault of this machine is an entry into
`Terminated(Fault(...))`, which 60_exceptions.md R212 and R216 describe, so every step that raises one has a next state
holding the record (notes/assumptions/5.md). -/
inductive Fault
  deriving DecidableEq, Repr

/-- Refusals in the sense of `Host.Outcome`. -/
inductive Refusal where
  /-- An instruction without a meaning in the model. Safe. Raised by nothing: `exec` gives every instruction its
  meaning. -/
  | notModelled (mnemonic : String)
  deriving DecidableEq, Repr

/-- The machine: the state of 10_state.md R20, the two channels at its boundary (20_memory.md R50) and the inputs of a
run (00_scope.md R9, R15), which no instruction changes. -/
structure State where
  /-- `STACK_DEPTH` and `FRAME_DEPTH` (00_scope.md R9). -/
  params : Params
  /-- `Program[0 .. PROG_LEN-1]` (10_state.md R32, 20_memory.md R51). -/
  program : List Word
  /-- The program counter, an integer (10_state.md R22, 00_scope.md R13). -/
  pc : Int
  /-- The operand stack (10_state.md R23); the head is the top, `S[depth-1]`. -/
  stack : List Value
  /-- The flag `zero` (10_state.md R25). -/
  zero : Bool
  /-- The flag `sign`: the last non-zero result was strictly positive (10_state.md R25). -/
  sign : Bool
  /-- The variables of the root frame `F[0]`, whose return address is the sentinel (10_state.md R27, R29). -/
  rootVars : Memory
  /-- The frames `F[fdepth-1] .. F[1]`, the current frame first (10_state.md R27). -/
  calls : List Frame
  /-- Running, or terminated with its outcome (10_state.md R30); the status fields of R31 but `JUMPED` are read from
  it. -/
  runState : RunState
  /-- `JUMPED`: the report of the most recent step (10_state.md R31). -/
  jumped : Bool
  /-- Responses delivered and not yet consumed, the next one first (45_io.md R181, 20_memory.md R60). -/
  input : List InResponse
  /-- Events emitted in this run, oldest first (45_io.md R183). -/
  output : List OutEvent
  deriving DecidableEq, Repr

/-- What an instruction answers. -/
abbrev Result := Host.Outcome State Fault Refusal

/-- The machine right after reset (10_state.md R36, 70_reset_and_hazards.md R240). The spec gives every field of the core its value. The
inputs of a run are the model's choice: no program, no response delivered, the default capacities
(DESIGN CHOICE, notes/assumptions/1.md, 2.md, 3.md). -/
def State.reset : State :=
  { params := Params.default
    program := []
    pc := 0
    stack := []
    zero := false
    sign := false
    rootVars := []
    calls := []
    runState := .running
    jumped := false
    input := []
    output := [] }

end Sys2Proof.Machine
end

