-- ==== Sys2Proof/Machine/Ops.lean ====
section
/-! DEFINITION. The named operations of 00_scope.md R12 over the stacks, the variables and the program; the endings of an
instruction rule (40_execution_cycle.md R104); taking a fault (60_exceptions.md R212, R216) and, beside it, reset, the only way
out of it (R217). -/

namespace Sys2Proof.Machine

/-- `ProgRead(a)` (20_memory.md R51), `none` outside `0 .. PROG_LEN-1`. -/
def progRead (program : List Word) (a : Int) : Option Word :=
  if 0 ≤ a then program[a.toNat]? else none

/-- `PROG_LEN` (00_scope.md R9). -/
def State.progLen (s : State) : Nat := s.program.length

/-- The word fetched at `pc`, `none` when `pc` is outside the program (40_execution_cycle.md R101). -/
def State.fetchWord (s : State) : Option Word := progRead s.program s.pc

/-- The program with `w` at address `k`, lengthened with zero words where it ends before `k`: how the host
places a word in program memory (70_reset_and_hazards.md R243). -/
def placeWord (program : List Word) (k : Nat) (w : Word) : List Word :=
  (program ++ List.replicate (k + 1 - program.length) 0).set k w

/-- `depth` (10_state.md R23). -/
def State.depth (s : State) : Nat := s.stack.length

/-- The operand stack holds `STACK_DEPTH` elements (10_state.md R24). -/
def State.stackFull (s : State) : Bool := decide (s.params.stackDepth ≤ s.depth)

/-- `push(v)` (10_state.md R24); the caller has checked the depth. -/
def push (v : Value) (s : State) : State := { s with stack := v :: s.stack }

/-- `fdepth` (10_state.md R27): the root frame and the frames above it. -/
def State.fdepth (s : State) : Nat := s.calls.length + 1

/-- The frame stack holds `FRAME_DEPTH` frames (10_state.md R27). -/
def State.framesFull (s : State) : Bool := decide (s.params.frameDepth ≤ s.fdepth)

/-- The value bound to a slot in a mapping, `none` when unbound (10_state.md R28). -/
def Memory.read : Memory → Nat → Option Value
  | [], _ => none
  | (k, v) :: rest, slot => if slot = k then some v else Memory.read rest slot

/-- The mapping with `slot` bound to `v`, an earlier binding replaced (10_state.md R28, D26). -/
def Memory.write : Memory → Nat → Value → Memory
  | [], slot, v => [(slot, v)]
  | (k, x) :: rest, slot, v =>
    if slot < k then (slot, v) :: (k, x) :: rest
    else if slot = k then (slot, v) :: rest
    else (k, x) :: Memory.write rest slot v

/-- The canonical form of a mapping: slots strictly rising and below 65536. No entry can equal what an
unlisted slot reads as, since that is no value. -/
abbrev Memory.wf (m : Memory) : Prop :=
  (m.map Prod.fst).Pairwise (· < ·) ∧ ∀ c ∈ m, c.1 < 65536

/-- `cur.vars`: the variables of the current frame (10_state.md R27, R28). -/
def State.curVars (s : State) : Memory :=
  match s.calls with
  | [] => s.rootVars
  | f :: _ => f.vars

/-- The state with the current frame's variables replaced. -/
def setCurVars (m : Memory) (s : State) : State :=
  match s.calls with
  | [] => { s with rootVars := m }
  | f :: rest => { s with calls := { f with vars := m } :: rest }

/-- `VarRead(slot)` (10_state.md R28). -/
def varRead (slot : Value) (s : State) : Option Value := Memory.read s.curVars (u16 slot)

/-- `VarWrite(slot, v)` (10_state.md R28). -/
def varWrite (slot v : Value) (s : State) : State :=
  setCurVars (Memory.write s.curVars (u16 slot) v) s

/-- `Out(e)` (45_io.md R183). -/
def emit (e : OutEvent) (s : State) : State := { s with output := s.output ++ [e] }

/-- The ordinary ending of a rule: `pc + 1`, not jumped (40_execution_cycle.md R104). -/
def advance (s : State) : State := { s with pc := s.pc + 1, jumped := false }

/-- The ending of a taken transfer: `pc <- t`, jumped (40_execution_cycle.md R104). -/
def jumpTo (t : Int) (s : State) : State := { s with pc := t, jumped := true }

/-- `halt(v)`: `Terminated(Success(v))`, `pc` unchanged, not jumped (40_execution_cycle.md R104, 41_halt_illegal.md R120). -/
def haltWith (v : Value) (s : State) : State :=
  { s with runState := .terminated (.success v), jumped := false }

/-- `raise K`: taking a fault (60_exceptions.md R212, R213, R216). The record holds the kind, `pc` and the word fetched there;
nothing else changes but `jumped`, which is 0 (40_execution_cycle.md R104). For `PcOutOfRange` no word was fetched, and
`fetchWord` says so. -/
def raiseFault (k : FaultKind) (s : State) : State :=
  { s with runState := .terminated (.fault k s.pc s.fetchWord), jumped := false }

/-- Reset, in any state (70_reset_and_hazards.md R240, R242): every field of the core at its reset value; the program and the
capacities stay, and so do the responses not yet consumed. -/
def resetCore (s : State) : State :=
  { State.reset with params := s.params, program := s.program, input := s.input }

/-- Push `v` and advance, or `StackOverflow` on a full stack (10_state.md R24): the ending of `LEN`, `PUSH`, `DUP`
and `LOAD`. -/
def pushAndAdvance (v : Value) (s : State) : Result :=
  if s.stackFull then .next (raiseFault .stackOverflow s) else .next (advance (push v s))

end Sys2Proof.Machine
end

