-- ==== Sys2Proof/Machine/Flags.lean ====
section
/-! DEFINITION. The flag update (43_arithmetic.md R141) and the conditions of the jumps (44_branches.md R162). -/

namespace Sys2Proof.Machine

/-- `UpdateFlags(r)` (43_arithmetic.md R141): `sign` keeps its value on a zero result. -/
def updateFlags (r : Value) (s : State) : State :=
  if s16 r = 0 then { s with zero := true }
  else { s with zero := false, sign := decide (0 < s16 r) }

/-- `JE`: `zero = 1` (44_branches.md R162). -/
def State.condE (s : State) : Bool := s.zero

/-- `JNE`: `zero = 0`. -/
def State.condNE (s : State) : Bool := !s.zero

/-- `JG`: `sign = 1`. -/
def State.condG (s : State) : Bool := s.sign

/-- `JL`: `sign = 0`. -/
def State.condL (s : State) : Bool := !s.sign

/-- `JGE`: `sign = 1 or zero = 1`. -/
def State.condGE (s : State) : Bool := s.sign || s.zero

/-- `JLE`: `sign = 0 or zero = 1`. -/
def State.condLE (s : State) : Bool := !s.sign || s.zero

end Sys2Proof.Machine
end

