-- ==== Sys2Proof/Machine/Arithmetic.lean ====
section
/-! DEFINITION. `ADD`, `SUB`, `MUL`, `DIV`, `MOD`, `CMP` (43_arithmetic.md): exact integers, then `wrap16`. -/

namespace Sys2Proof.Machine

/-- The operation of `ADD` (43_arithmetic.md R142). -/
def opAdd (n2 n1 : Value) : Value := wrap16 (s16 n2 + s16 n1)

/-- The operation of `SUB` and `CMP` (43_arithmetic.md R143, R147). -/
def opSub (n2 n1 : Value) : Value := wrap16 (s16 n2 - s16 n1)

/-- The operation of `MUL` (43_arithmetic.md R144). -/
def opMul (n2 n1 : Value) : Value := wrap16 (s16 n2 * s16 n1)

/-- The operation of `DIV` (43_arithmetic.md R145): the quotient rounded toward zero. -/
def opDiv (n2 n1 : Value) : Value := wrap16 (Int.tdiv (s16 n2) (s16 n1))

/-- The operation of `MOD` (43_arithmetic.md R146): the remainder of that division. -/
def opMod (n2 n1 : Value) : Value :=
  wrap16 (s16 n2 - Int.tdiv (s16 n2) (s16 n1) * s16 n1)

/-- The two operands replaced by `r`, flags updated from it, and the ordinary advance
(43_arithmetic.md R140). -/
def finishBinop (r : Value) (below : List Value) (s : State) : Result :=
  .next (advance (updateFlags r { s with stack := r :: below }))

/-- `BINOP(op)` of 43_arithmetic.md R140 for the operations that take every divisor: `n1` is the top, `n2` the element
under it, the left-hand operand. -/
def binop (op : Value → Value → Value) (s : State) : Result :=
  match s.stack with
  | n1 :: n2 :: below => finishBinop (op n2 n1) below s
  | _ => .next (raiseFault .stackUnderflow s)

/-- `BINOP(op)` of 43_arithmetic.md R140 for `DIV` and `MOD`: underflow is tested first, then the zero divisor. -/
def divBinop (op : Value → Value → Value) (s : State) : Result :=
  match s.stack with
  | n1 :: n2 :: below =>
    if s16 n1 = 0 then .next (raiseFault .arithmeticFault s) else finishBinop (op n2 n1) below s
  | _ => .next (raiseFault .stackUnderflow s)

/-- `ADD` (43_arithmetic.md R142). -/
def execAdd (_operand1 : Value) (_operand2 : Byte) (s : State) : Result := binop opAdd s

/-- `SUB` (43_arithmetic.md R143). -/
def execSub (_operand1 : Value) (_operand2 : Byte) (s : State) : Result := binop opSub s

/-- `MUL` (43_arithmetic.md R144). -/
def execMul (_operand1 : Value) (_operand2 : Byte) (s : State) : Result := binop opMul s

/-- `DIV` (43_arithmetic.md R145). -/
def execDiv (_operand1 : Value) (_operand2 : Byte) (s : State) : Result := divBinop opDiv s

/-- `MOD` (43_arithmetic.md R146). -/
def execMod (_operand1 : Value) (_operand2 : Byte) (s : State) : Result := divBinop opMod s

/-- `CMP` (43_arithmetic.md R147): pops both operands and pushes the difference, as `SUB` does. -/
def execCmp (_operand1 : Value) (_operand2 : Byte) (s : State) : Result := binop opSub s

end Sys2Proof.Machine
end

