-- ==== Sys2Proof/Machine/Operands.lean ====
section
/-! DEFINITION. The operand forms (30_encoding.md R79): addressing modes and targets of branches (44_branches.md R160, R161),
output modes (45_io.md R183, R184). -/

namespace Sys2Proof.Machine

/-- Addressing modes of branches and `CALL` (44_branches.md R160). -/
inductive BranchMode where
  | absolute
  | forward
  | backward
  deriving DecidableEq, Repr

/-- The mode an `operand2` selects, `none` where it has no meaning (44_branches.md R161, 30_encoding.md R72). -/
def branchMode (operand2 : Byte) : Option BranchMode :=
  if s8 operand2 = 0 then some .absolute
  else if s8 operand2 = 1 then some .forward
  else if s8 operand2 = 2 then some .backward
  else none

/-- `Target(a, operand1, operand2)` in integers (44_branches.md R160), `a` the branch's own address. -/
def target (m : BranchMode) (a operand1 : Int) : Int :=
  match m with
  | .absolute => operand1
  | .forward => a + operand1
  | .backward => a - operand1

/-- Output modes of `STDOUT` (45_io.md R183, R184). -/
inductive OutMode where
  | decimal
  | charNewline
  | rawByte
  | char
  deriving DecidableEq, Repr

/-- The mode an `operand2` of `STDOUT` selects, `none` where it has no meaning (45_io.md R184, 30_encoding.md R81). -/
def outMode (operand2 : Byte) : Option OutMode :=
  if s8 operand2 = 0 then some .decimal
  else if s8 operand2 = 1 then some .charNewline
  else if s8 operand2 = 2 then some .rawByte
  else if s8 operand2 = 3 then some .char
  else none

/-- The event a mode emits for the top value `v` (45_io.md R183, R184). -/
def outEvent (m : OutMode) (v : Value) : OutEvent :=
  match m with
  | .decimal => .dec v
  | .charNewline => .charNl (lowByte v)
  | .rawByte => .raw (lowByte v)
  | .char => .char (lowByte v)

/-- `BRANCH(cond)` (44_branches.md R162). -/
def branch (cond : Bool) (operand1 : Value) (operand2 : Byte) (s : State) : Result :=
  match branchMode operand2 with
  | none => .next (raiseFault .illegalOperand s)
  | some m =>
    if cond then .next (jumpTo (target m s.pc (s16 operand1)) s) else .next (advance s)

end Sys2Proof.Machine
end

