-- ==== Sys2Proof/Machine/Branch.lean ====
section
/-! DEFINITION. `JMP`, `JE`, `JNE`, `JG`, `JL`, `JGE`, `JLE` (44_branches.md). -/

namespace Sys2Proof.Machine

/-- `JMP` (44_branches.md R163). -/
def execJmp (operand1 : Value) (operand2 : Byte) (s : State) : Result :=
  branch true operand1 operand2 s

/-- `JE` (44_branches.md R164). -/
def execJe (operand1 : Value) (operand2 : Byte) (s : State) : Result :=
  branch s.condE operand1 operand2 s

/-- `JNE` (44_branches.md R165). -/
def execJne (operand1 : Value) (operand2 : Byte) (s : State) : Result :=
  branch s.condNE operand1 operand2 s

/-- `JG` (44_branches.md R166). -/
def execJg (operand1 : Value) (operand2 : Byte) (s : State) : Result :=
  branch s.condG operand1 operand2 s

/-- `JL` (44_branches.md R167). -/
def execJl (operand1 : Value) (operand2 : Byte) (s : State) : Result :=
  branch s.condL operand1 operand2 s

/-- `JGE` (44_branches.md R168). -/
def execJge (operand1 : Value) (operand2 : Byte) (s : State) : Result :=
  branch s.condGE operand1 operand2 s

/-- `JLE` (44_branches.md R169): the same three modes as the other jumps (90_conflicts.md C1). -/
def execJle (operand1 : Value) (operand2 : Byte) (s : State) : Result :=
  branch s.condLE operand1 operand2 s

end Sys2Proof.Machine
end

