-- ==== Sys2Proof/Machine/Call.lean ====
section
/-! DEFINITION. `CALL` and `RETURN` (47_call_return.md). -/

namespace Sys2Proof.Machine

/-- `CALL` (47_call_return.md R200): the mode is tested before the frame stack; the new frame is empty and holds the
`CALL`'s own address. -/
def execCall (operand1 : Value) (operand2 : Byte) (s : State) : Result :=
  match branchMode operand2 with
  | none => .next (raiseFault .illegalOperand s)
  | some m =>
    if s.framesFull then .next (raiseFault .callStackOverflow s)
    else
      .next (jumpTo (target m s.pc (s16 operand1)) { s with calls := { vars := [], ra := s.pc } :: s.calls })

/-- `RETURN` (47_call_return.md R201): `pc <- ra`, not jumped, so the ordinary `+ 1` applies on top of it. -/
def execReturn (_operand1 : Value) (_operand2 : Byte) (s : State) : Result :=
  match s.calls with
  | [] => .next (raiseFault .callStackUnderflow s)
  | f :: rest => .next (advance { s with calls := rest, pc := f.ra })

end Sys2Proof.Machine
end

