-- ==== Sys2Proof/Machine/Halt.lean ====
section
/-! DEFINITION. `HALT` and `ILG` (41_halt_illegal.md). -/

namespace Sys2Proof.Machine

/-- `HALT` (41_halt_illegal.md R120): `Success` with the top, read and not popped, or 0 on an empty stack. -/
def execHalt (_operand1 : Value) (_operand2 : Byte) (s : State) : Result :=
  .next (haltWith (s.stack.head?.getD 0) s)

/-- `ILG` (41_halt_illegal.md R121): takes `IllegalOpcode`, the raw word in the record. -/
def execIlg (_operand1 : Value) (_operand2 : Byte) (s : State) : Result :=
  .next (raiseFault .illegalOpcode s)

end Sys2Proof.Machine
end

