-- ==== Sys2Proof/Machine/Io.lean ====
section
/-! DEFINITION. `STDIN` and `STDOUT` (45_io.md). -/

namespace Sys2Proof.Machine

/-- `STDIN` (45_io.md R182): a full stack faults before input is asked for; a response is consumed also when it is
`ParseFail`. With no response delivered the step is not enabled and the state stays as it is (R181,
40_execution_cycle.md R110; notes/assumptions/6.md). -/
def execStdin (_operand1 : Value) (_operand2 : Byte) (s : State) : Result :=
  if s.stackFull then .next (raiseFault .stackOverflow s)
  else
    match s.input with
    | [] => .next s
    | .parseFail :: rest => .next (raiseFault .inputParseFailure { s with input := rest })
    | .value v :: rest => .next (advance (push v { s with input := rest }))

/-- `STDOUT` (45_io.md R184): the mode is tested before the stack; the top is read and stays. -/
def execStdout (_operand1 : Value) (operand2 : Byte) (s : State) : Result :=
  match outMode operand2 with
  | none => .next (raiseFault .illegalOperand s)
  | some m =>
    match s.stack with
    | [] => .next (raiseFault .stackUnderflow s)
    | v :: _ => .next (advance (emit (outEvent m v) s))

end Sys2Proof.Machine
end

