-- ==== Sys2Proof/Machine/Stack.lean ====
section
/-! DEFINITION. `LEN`, `POP`, `PUSH`, `DUP` (42_stack_ops.md). -/

namespace Sys2Proof.Machine

/-- `LEN` (42_stack_ops.md R130): pushes the depth before its own push. -/
def execLen (_operand1 : Value) (_operand2 : Byte) (s : State) : Result :=
  pushAndAdvance (wrap16 s.depth) s

/-- `POP` (42_stack_ops.md R131). -/
def execPop (_operand1 : Value) (_operand2 : Byte) (s : State) : Result :=
  match s.stack with
  | [] => .next (raiseFault .stackUnderflow s)
  | _ :: rest => .next (advance { s with stack := rest })

/-- `PUSH` (42_stack_ops.md R132): the 16-bit pattern of `operand1`. -/
def execPush (operand1 : Value) (_operand2 : Byte) (s : State) : Result :=
  pushAndAdvance operand1 s

/-- `DUP` (42_stack_ops.md R133): underflow is tested before overflow. -/
def execDup (_operand1 : Value) (_operand2 : Byte) (s : State) : Result :=
  match s.stack with
  | [] => .next (raiseFault .stackUnderflow s)
  | v :: _ => pushAndAdvance v s

end Sys2Proof.Machine
end

