-- ==== Sys2Proof/Machine/Variables.lean ====
section
/-! DEFINITION. `LOAD` and `STORE` (46_variables.md). -/

namespace Sys2Proof.Machine

/-- `LOAD` (46_variables.md R190): an unbound slot outranks a full stack. -/
def execLoad (operand1 : Value) (_operand2 : Byte) (s : State) : Result :=
  match varRead operand1 s with
  | none => .next (raiseFault .unknownVariable s)
  | some v => pushAndAdvance v s

/-- `STORE` (46_variables.md R191). -/
def execStore (operand1 : Value) (_operand2 : Byte) (s : State) : Result :=
  match s.stack with
  | [] => .next (raiseFault .stackUnderflow s)
  | v :: rest => .next (advance (varWrite operand1 v { s with stack := rest }))

end Sys2Proof.Machine
end

