-- ==== Sys2Proof/Machine/Dispatch.lean ====
section
/-! DEFINITION. The dispatch (40_execution_cycle.md R103): one arm per constructor of Instr, no default arm. -/

namespace Sys2Proof.Machine

def exec (i : Instr) (s : State) : Host.Outcome State Fault Refusal :=
  match i with
  | .halt a b => Sys2Proof.Machine.execHalt a b s
  | .ilg a b => Sys2Proof.Machine.execIlg a b s
  | .len a b => Sys2Proof.Machine.execLen a b s
  | .pop a b => Sys2Proof.Machine.execPop a b s
  | .push a b => Sys2Proof.Machine.execPush a b s
  | .dup a b => Sys2Proof.Machine.execDup a b s
  | .add a b => Sys2Proof.Machine.execAdd a b s
  | .sub a b => Sys2Proof.Machine.execSub a b s
  | .mul a b => Sys2Proof.Machine.execMul a b s
  | .div a b => Sys2Proof.Machine.execDiv a b s
  | .mod a b => Sys2Proof.Machine.execMod a b s
  | .cmp a b => Sys2Proof.Machine.execCmp a b s
  | .jmp a b => Sys2Proof.Machine.execJmp a b s
  | .je a b => Sys2Proof.Machine.execJe a b s
  | .jne a b => Sys2Proof.Machine.execJne a b s
  | .jg a b => Sys2Proof.Machine.execJg a b s
  | .jl a b => Sys2Proof.Machine.execJl a b s
  | .jge a b => Sys2Proof.Machine.execJge a b s
  | .jle a b => Sys2Proof.Machine.execJle a b s
  | .stdin a b => Sys2Proof.Machine.execStdin a b s
  | .stdout a b => Sys2Proof.Machine.execStdout a b s
  | .load a b => Sys2Proof.Machine.execLoad a b s
  | .store a b => Sys2Proof.Machine.execStore a b s
  | .call a b => Sys2Proof.Machine.execCall a b s
  | .ret a b => Sys2Proof.Machine.execReturn a b s

end Sys2Proof.Machine
end

