-- ==== Sys2Proof/Machine/Step.lean ====
section
/-! DEFINITION. The step (40_execution_cycle.md R100 to R105): fetch, decode, dispatch; a terminated core does not step. -/

namespace Sys2Proof.Machine

/-- One step (40_execution_cycle.md R105). In `Terminated` a step request changes nothing (10_state.md R30). A fetch outside the program
takes `PcOutOfRange` (R101). -/
def step (s : State) : Host.Outcome State Fault Refusal :=
  match s.runState with
  | .terminated _ => .next s
  | .running =>
    match s.fetchWord with
    | none => .next (raiseFault .pcOutOfRange s)
    | some w => exec (decode w) s

/-- `s` with the word of `nbits` bits `w` placed where `step` fetches next (notes/assumptions/1.md). The core fetches only while
`Running` and at a non-negative address, so these two are set as well. -/
def State.withFetchWord (s : State) (nbits w : Nat) : State :=
  { s with
    runState := .running
    pc := s.pc.toNat
    program := placeWord s.program s.pc.toNat (BitVec.ofNat 32 (w % 2 ^ nbits)) }

end Sys2Proof.Machine
end

