-- ==== Sys2Proof/Machine/Channel.lean ====
section
/-! DEFINITION. The two channels as the devices see them: events as bytes and their flushing (45_io.md R185), and the
environment's `ParseLine` in the default form of 92_eei_decisions.md D20. -/

namespace Sys2Proof.Machine

/-- `Utf8(c)` (45_io.md R185): one byte up to 0x7F, else the two bytes `0xC0 | c[7:6]`, `0x80 | c[5:0]`. -/
def utf8 (c : Byte) : List Byte :=
  if u8 c ≤ 0x7F then [c]
  else [0xC0 ||| (c >>> 6), 0x80 ||| (c &&& 0x3F)]

/-- The ASCII digit of a number below 10. -/
def digitByte (d : Nat) : Byte := BitVec.ofNat 8 (0x30 + d)

/-- The last `n` decimal digits of `m`, fewer where `m` has fewer, the most significant first. -/
def decimalDigits : Nat → Nat → List Byte
  | 0, _ => []
  | n + 1, m => if m < 10 then [digitByte m] else decimalDigits n (m / 10) ++ [digitByte (m % 10)]

/-- The decimal text of a value (45_io.md R185): no leading zeros, no `+`, `-` when negative. Five digits are
enough for 32768. -/
def decimalText (v : Value) : List Byte :=
  if s16 v < 0 then 0x2D :: decimalDigits 5 (s16 v).natAbs else decimalDigits 5 (s16 v).natAbs

/-- The bytes of an event (45_io.md R185); newline is 0x0A. -/
def OutEvent.bytes : OutEvent → List Byte
  | .dec v => decimalText v ++ [0x0A]
  | .charNl c => utf8 c ++ [0x0A]
  | .raw c => [c]
  | .char c => utf8 c

/-- Whether an event is flushed immediately (45_io.md R185), the signal `out_flush` (70_reset_and_hazards.md R250). -/
def OutEvent.flushes : OutEvent → Bool
  | .dec _ | .charNl _ => false
  | .raw _ | .char _ => true

/-- The kind of an event as a number, the signal `out_kind`, which is the `STDOUT` mode (70_reset_and_hazards.md R250). -/
def OutEvent.kind : OutEvent → BitVec 2
  | .dec _ => 0
  | .charNl _ => 1
  | .raw _ => 2
  | .char _ => 3

/-- The bytes of a sequence of events, in order (45_io.md R185). -/
def outputBytes (es : List OutEvent) : List Byte := es.flatMap OutEvent.bytes

/-- The events up to the last one that flushes. -/
def flushedEvents (es : List OutEvent) : List OutEvent :=
  (es.reverse.dropWhile (fun e => !e.flushes)).reverse

/-- The bytes that are visible at the device whatever it delays (45_io.md R185, 10_state.md R34): those of a flushed event
and of every earlier one, and all of them once the run has terminated. -/
def State.visibleBytes (s : State) : List Byte :=
  match s.runState with
  | .running => outputBytes (flushedEvents s.output)
  | .terminated _ => outputBytes s.output

/-- The white space of the default `ParseLine`: space and 0x09 to 0x0D. PRESUMED (notes/assumptions/7.md). -/
def isBlank (c : Byte) : Bool := u8 c == 0x20 || (decide (0x09 ≤ u8 c) && decide (u8 c ≤ 0x0D))

/-- A text without surrounding white space. -/
def trimBlanks (t : List Byte) : List Byte :=
  ((t.dropWhile isBlank).reverse.dropWhile isBlank).reverse

/-- The number whose decimal digits are `t`, with the digits already read as `acc`; `none` at another byte. -/
def readDigits : List Byte → Nat → Option Nat
  | [], acc => some acc
  | c :: rest, acc =>
    if 0x30 ≤ u8 c ∧ u8 c ≤ 0x39 then readDigits rest (acc * 10 + (u8 c - 0x30)) else none

/-- An unsigned decimal number: at least one digit, digits only. -/
def readNumber : List Byte → Option Nat
  | [] => none
  | t => readDigits t 0

/-- A number with an optional leading `-`. -/
def readSigned : List Byte → Option Int
  | [] => none
  | c :: rest =>
    if c = 0x2D then (readNumber rest).map (fun n : Nat => -(n : Int))
    else (readNumber (c :: rest)).map (fun n : Nat => (n : Int))

/-- The default `ParseLine` of 92_eei_decisions.md D20, an open parameter of the environment (00_scope.md R9, 45_io.md R180): the response for a line of text,
or for the end of input (`none`). -/
def parseLineDefault : Option (List Byte) → InResponse
  | none => .parseFail
  | some t =>
    match readSigned (trimBlanks t) with
    | none => .parseFail
    | some z => if -32768 ≤ z ∧ z ≤ 32767 then .value (wrap16 z) else .parseFail

end Sys2Proof.Machine
end

