-- ==== Sys2Proof/Machine/HostInterface.lean ====
section
/-! DEFINITION. What the environment can do (40_execution_cycle.md R106, R111; 70_reset_and_hazards.md R240 to R249): load a program, reset, deliver input,
request steps and run; and the signal `in_req`. -/

namespace Sys2Proof.Machine

/-- The words of a binary file (20_memory.md R55, 70_reset_and_hazards.md R245): 4-byte big-endian words, no header; any other length is
`MisalignedBinary`. -/
def loadBinary : List Byte → Except FaultKind (List Word)
  | [] => .ok []
  | b0 :: b1 :: b2 :: b3 :: rest =>
    match loadBinary rest with
    | .ok ws => .ok (bytesToWord { b0 := b0, b1 := b1, b2 := b2, b3 := b3 } :: ws)
    | .error k => .error k
  | _ :: _ => .error .misalignedBinary

/-- The program placed in program memory and the core reset (70_reset_and_hazards.md R240, R243). -/
def loadProgram (ws : List Word) (s : State) : State := resetCore { s with program := ws }

/-- The external loader (20_memory.md R55, 70_reset_and_hazards.md R245): the core is started on a well-formed file only. -/
def loadFile (bytes : List Byte) (s : State) : Except FaultKind State :=
  match loadBinary bytes with
  | .ok ws => .ok (loadProgram ws s)
  | .error k => .error k

/-- The environment delivers one response (45_io.md R181, 70_reset_and_hazards.md R249). -/
def deliver (r : InResponse) (s : State) : State := { s with input := s.input ++ [r] }

/-- The environment reads one line, or the end of input, and delivers what its `ParseLine` makes of it
(45_io.md R180). -/
def deliverLine (parseLine : Option (List Byte) → InResponse) (line : Option (List Byte)) (s : State) : State :=
  deliver (parseLine line) s

/-- The signal `in_req` (70_reset_and_hazards.md R250): a `STDIN` waits for a response (45_io.md R181, 40_execution_cycle.md R110). -/
def State.waiting (s : State) : Bool :=
  match s.runState, s.fetchWord with
  | .running, some w =>
    match decode w with
    | .stdin _ _ => !s.stackFull && s.input.isEmpty
    | _ => false
  | _, _ => false

/-- The state after one step request (40_execution_cycle.md R111). -/
def stepState (s : State) : State :=
  match step s with
  | .next t => t
  | .fault _ => s
  | .refused _ => s

/-- The state after `n` step requests; a run is these until the run state is terminated (40_execution_cycle.md R106). -/
def runSteps : Nat → State → State
  | 0, s => s
  | n + 1, s => runSteps n (stepState s)

/-- A run from `s` ends with outcome `o` (40_execution_cycle.md R106, 70_reset_and_hazards.md R248). -/
def EndsWith (s : State) (o : RunOutcome) : Prop := ∃ n, (runSteps n s).runState = .terminated o

end Sys2Proof.Machine
end

