-- ==== Sys2Proof/Machine/Status.lean ====
section
/-! DEFINITION. The read-only status fields of the host (10_state.md R31), and the spec's own indexing of the two stacks
(10_state.md R23, R27, R29) as views of the state. -/

namespace Sys2Proof.Machine

/-- Fault codes (60_exceptions.md R211). -/
def FaultKind.code : FaultKind → BitVec 4
  | .illegalOpcode => 1
  | .stackUnderflow => 2
  | .callStackUnderflow => 3
  | .unknownVariable => 4
  | .inputParseFailure => 5
  | .arithmeticFault => 6
  | .misalignedBinary => 7
  | .pcOutOfRange => 8
  | .illegalOperand => 9
  | .stackOverflow => 10
  | .callStackOverflow => 11

/-- `RUNSTATE` (10_state.md R31): 0 `Running`, 1 `Success`, 2 `Fault`. -/
def State.statusRunstate (s : State) : BitVec 2 :=
  match s.runState with
  | .running => 0
  | .terminated (.success _) => 1
  | .terminated (.fault _ _ _) => 2

/-- `RESULT` (10_state.md R31): the value `HALT` yields, else 0. -/
def State.statusResult (s : State) : Value :=
  match s.runState with
  | .terminated (.success v) => v
  | _ => 0

/-- `FAULT_KIND` (10_state.md R31): the code of the fault, else 0. -/
def State.statusFaultKind (s : State) : BitVec 4 :=
  match s.runState with
  | .terminated (.fault k _ _) => k.code
  | _ => 0

/-- `FAULT_ADDR` (10_state.md R31): `pc` of the faulting step as a 32-bit signed number, else 0. -/
def State.statusFaultAddr (s : State) : BitVec 32 :=
  match s.runState with
  | .terminated (.fault _ a _) => BitVec.ofInt 32 a
  | _ => 0

/-- `FAULT_INSTR_VALID` (10_state.md R31): 1 if the faulting step fetched a word, else 0. -/
def State.statusFaultInstrValid (s : State) : BitVec 1 :=
  match s.runState with
  | .terminated (.fault _ _ (some _)) => 1
  | _ => 0

/-- `FAULT_INSTR` (10_state.md R31): the raw word at `FAULT_ADDR`, else 0. -/
def State.statusFaultInstr (s : State) : Word :=
  match s.runState with
  | .terminated (.fault _ _ (some w)) => w
  | _ => 0

/-- `JUMPED` (10_state.md R31). -/
def State.statusJumped (s : State) : BitVec 1 := BitVec.ofBool s.jumped

/-- The decoded instruction of a fault report, `decode(FAULT_INSTR)` (30_encoding.md R78, 60_exceptions.md R212). -/
def State.faultInstruction (s : State) : Option Instr :=
  match s.runState with
  | .terminated (.fault _ _ (some w)) => some (decode w)
  | _ => none

/-- The 32-bit register that holds `pc` (10_state.md R22), also the signal `prog_addr` (70_reset_and_hazards.md R250). -/
def State.pcRegister (s : State) : BitVec 32 := BitVec.ofInt 32 s.pc

/-- `S[i]`, `S[0]` the element pushed earliest (10_state.md R23). -/
def State.elem (s : State) (i : Nat) : Option Value := s.stack.reverse[i]?

/-- A frame as 10_state.md R28 and R29 write it. -/
structure FrameView where
  vars : Memory
  raValid : Bool
  ra : Int
  deriving DecidableEq, Repr

/-- `F[0 .. fdepth-1]` (10_state.md R27): the root frame with the sentinel, then the frames of `CALL`, oldest first.
`ra` of the root frame is meaningless (R29) and shown as 0. -/
def State.frames (s : State) : List FrameView :=
  { vars := s.rootVars, raValid := false, ra := 0 } ::
    s.calls.reverse.map (fun f => { vars := f.vars, raValid := true, ra := f.ra })

end Sys2Proof.Machine
end

