-- ==== Sys2Proof/WellFormed.lean ====
section
/-! DEFINITION. Which instructions are legal as words (30_encoding.md R80, R81). Decoding accepts the others too and
their execution raises `IllegalOpcode` or `IllegalOperand` (notes/assumptions/8.md). -/

namespace Sys2Proof

/-- The addressing modes with a meaning: 0, 1, 2 (30_encoding.md R81, 44_branches.md R160). -/
def branchModeLegal (operand2 : Byte) : Bool :=
  operand2 == 0 || operand2 == 1 || operand2 == 2

/-- The output modes with a meaning: 0, 1, 2, 3 (30_encoding.md R81, 45_io.md R184). -/
def outModeLegal (operand2 : Byte) : Bool :=
  operand2 == 0 || operand2 == 1 || operand2 == 2 || operand2 == 3

/-- Legality of an instruction "as a property of the word alone" (92_eei_decisions.md D11): not `ILG`
(R80), and a mode operand with a meaning where the opcode has one (R81). Ignored fields hold any value
(R79). -/
def Instr.wellFormed : Instr → Bool
  | .ilg _ _ => false
  | .jmp _ b | .je _ b | .jne _ b | .jg _ b | .jl _ b | .jge _ b | .jle _ b => branchModeLegal b
  | .call _ b => branchModeLegal b
  | .stdout _ b => outModeLegal b
  | .halt _ _ | .len _ _ | .pop _ _ | .push _ _ | .dup _ _ => true
  | .add _ _ | .sub _ _ | .mul _ _ | .div _ _ | .mod _ _ | .cmp _ _ => true
  | .stdin _ _ | .load _ _ | .store _ _ | .ret _ _ => true

end Sys2Proof
end

