-- ==== Sys2Proof/Safety.lean ====
section
/-! DEFINITION. What counts as a safe state, in the terms the statements use: the invariants of 10_state.md R35, the fault record
of 60_exceptions.md R212, the fault table of 60_exceptions.md R211, R214 and R215, and who touches the flags (10_state.md R26). -/

namespace Sys2Proof

/-- The opcodes that write the flags (10_state.md R26). -/
def Instr.writesFlags : Instr → Bool
  | .add _ _ | .sub _ _ | .mul _ _ | .div _ _ | .mod _ _ | .cmp _ _ => true
  | .halt _ _ | .ilg _ _ | .len _ _ | .pop _ _ | .push _ _ | .dup _ _ => false
  | .jmp _ _ | .je _ _ | .jne _ _ | .jg _ _ | .jl _ _ | .jge _ _ | .jle _ _ => false
  | .stdin _ _ | .stdout _ _ | .load _ _ | .store _ _ | .call _ _ | .ret _ _ => false

/-- The jumps of 44_branches.md. -/
def Instr.isJump : Instr → Bool
  | .jmp _ _ | .je _ _ | .jne _ _ | .jg _ _ | .jl _ _ | .jge _ _ | .jle _ _ => true
  | .halt _ _ | .ilg _ _ | .len _ _ | .pop _ _ | .push _ _ | .dup _ _ => false
  | .add _ _ | .sub _ _ | .mul _ _ | .div _ _ | .mod _ _ | .cmp _ _ => false
  | .stdin _ _ | .stdout _ _ | .load _ _ | .store _ _ | .call _ _ | .ret _ _ => false

/-- The opcodes that read `zero` (10_state.md R26). -/
def Instr.readsZero : Instr → Bool
  | .je _ _ | .jne _ _ | .jge _ _ | .jle _ _ => true
  | .add _ _ | .sub _ _ | .mul _ _ | .div _ _ | .mod _ _ | .cmp _ _ => false
  | .halt _ _ | .ilg _ _ | .len _ _ | .pop _ _ | .push _ _ | .dup _ _ => false
  | .jmp _ _ | .jg _ _ | .jl _ _ => false
  | .stdin _ _ | .stdout _ _ | .load _ _ | .store _ _ | .call _ _ | .ret _ _ => false

/-- The opcodes that read `sign` (10_state.md R26). -/
def Instr.readsSign : Instr → Bool
  | .jg _ _ | .jl _ _ | .jge _ _ | .jle _ _ => true
  | .add _ _ | .sub _ _ | .mul _ _ | .div _ _ | .mod _ _ | .cmp _ _ => false
  | .halt _ _ | .ilg _ _ | .len _ _ | .pop _ _ | .push _ _ | .dup _ _ => false
  | .jmp _ _ | .je _ _ | .jne _ _ => false
  | .stdin _ _ | .stdout _ _ | .load _ _ | .store _ _ | .call _ _ | .ret _ _ => false

/-- The elements of the operand stack an instruction removes or reads (60_exceptions.md R211, code 2). `HALT` reads the
top but does not need one (41_halt_illegal.md R120). -/
def Instr.needs : Instr → Nat
  | .pop _ _ | .dup _ _ | .store _ _ | .stdout _ _ => 1
  | .add _ _ | .sub _ _ | .mul _ _ | .div _ _ | .mod _ _ | .cmp _ _ => 2
  | .halt _ _ | .ilg _ _ | .len _ _ | .push _ _ | .stdin _ _ | .load _ _ | .call _ _ | .ret _ _ => 0
  | .jmp _ _ | .je _ _ | .jne _ _ | .jg _ _ | .jl _ _ | .jge _ _ | .jle _ _ => 0

/-- The instructions that can raise `StackOverflow` (60_exceptions.md R211, code 10). -/
def Instr.pushes : Instr → Bool
  | .len _ _ | .push _ _ | .dup _ _ | .stdin _ _ | .load _ _ => true
  | .halt _ _ | .ilg _ _ | .pop _ _ | .add _ _ | .sub _ _ | .mul _ _ | .div _ _ | .mod _ _ | .cmp _ _ => false
  | .jmp _ _ | .je _ _ | .jne _ _ | .jg _ _ | .jl _ _ | .jge _ _ | .jle _ _ => false
  | .stdout _ _ | .store _ _ | .call _ _ | .ret _ _ => false

/-- `operand2` is no defined mode of the instruction (60_exceptions.md R211, code 9). -/
def Instr.modeUndefined : Instr → Bool
  | .jmp _ b | .je _ b | .jne _ b | .jg _ b | .jl _ b | .jge _ b | .jle _ b | .call _ b => !branchModeLegal b
  | .stdout _ b => !outModeLegal b
  | .halt _ _ | .ilg _ _ | .len _ _ | .pop _ _ | .push _ _ | .dup _ _ => false
  | .add _ _ | .sub _ _ | .mul _ _ | .div _ _ | .mod _ _ | .cmp _ _ => false
  | .stdin _ _ | .load _ _ | .store _ _ | .ret _ _ => false

/-- The faults an instruction can raise (60_exceptions.md R215). -/
def Instr.mayRaise : Instr → List Machine.FaultKind
  | .halt _ _ => []
  | .ilg _ _ => [.illegalOpcode]
  | .len _ _ | .push _ _ => [.stackOverflow]
  | .pop _ _ | .store _ _ => [.stackUnderflow]
  | .dup _ _ => [.stackUnderflow, .stackOverflow]
  | .add _ _ | .sub _ _ | .mul _ _ | .cmp _ _ => [.stackUnderflow]
  | .div _ _ | .mod _ _ => [.stackUnderflow, .arithmeticFault]
  | .jmp _ _ | .je _ _ | .jne _ _ | .jg _ _ | .jl _ _ | .jge _ _ | .jle _ _ => [.illegalOperand]
  | .stdin _ _ => [.stackOverflow, .inputParseFailure]
  | .stdout _ _ => [.illegalOperand, .stackUnderflow]
  | .load _ _ => [.unknownVariable, .stackOverflow]
  | .call _ _ => [.illegalOperand, .callStackOverflow]
  | .ret _ _ => [.callStackUnderflow]

end Sys2Proof

namespace Sys2Proof.Machine

/-- The bounds of 10_state.md R35, with the constraints of 00_scope.md R9 on the inputs of the run. What R35 says of `ra_valid` and of
`fdepth >= 1` holds of every `State` by its shape (`State.frames`). -/
structure State.WithinBounds (s : State) : Prop where
  params_allowed : s.params.Allowed
  progLen_le : s.progLen ≤ maxProgLen
  depth_le : s.depth ≤ s.params.stackDepth
  fdepth_le : s.fdepth ≤ s.params.frameDepth
  ra_range : ∀ f ∈ s.calls, 0 ≤ f.ra ∧ f.ra < s.progLen
  pc_range : -32768 ≤ s.pc ∧ s.pc ≤ s.progLen + 32767

/-- Every frame's variables are in canonical form. -/
def State.MemoryCanonical (s : State) : Prop := Memory.wf s.rootVars ∧ ∀ f ∈ s.calls, Memory.wf f.vars

/-- The outcome record agrees with the state it was written in (60_exceptions.md R211, R212, R213): the address is `pc`, the word is
the one at `pc`, a word is missing exactly for `PcOutOfRange`, and the loader's kind never occurs. -/
def State.RecordSound (s : State) : Prop :=
  match s.runState with
  | .running => True
  | .terminated (.success _) => s.jumped = false
  | .terminated (.fault k a w) =>
    s.jumped = false ∧ a = s.pc ∧ w = s.fetchWord ∧ (w = none ↔ k = .pcOutOfRange) ∧ k ≠ .misalignedBinary

/-- The state in which `s` has raised `k`, field by field (60_exceptions.md R212, R213). -/
def Faulted (k : FaultKind) (s : State) : State :=
  { s with runState := .terminated (.fault k s.pc s.fetchWord), jumped := false }

/-- Whether the cause that 60_exceptions.md R211 gives for a fault kind is present when `i` executes in `s`. -/
def faultCause (i : Instr) (s : State) : FaultKind → Bool
  | .illegalOpcode => match i with | .ilg _ _ => true | _ => false
  | .stackUnderflow => decide (s.stack.length < i.needs)
  | .callStackUnderflow => match i with | .ret _ _ => s.calls.isEmpty | _ => false
  | .unknownVariable =>
    match i with | .load slot _ => (Memory.read s.curVars slot.toNat).isNone | _ => false
  | .inputParseFailure =>
    match i with | .stdin _ _ => decide (s.input.head? = some .parseFail) | _ => false
  | .arithmeticFault =>
    match i with | .div _ _ | .mod _ _ => decide (s.stack.head? = some 0) | _ => false
  | .illegalOperand => i.modeUndefined
  | .stackOverflow => i.pushes && decide (s.params.stackDepth ≤ s.stack.length)
  | .callStackOverflow =>
    match i with | .call _ _ => decide (s.params.frameDepth ≤ s.calls.length + 1) | _ => false
  | .misalignedBinary => false
  | .pcOutOfRange => false

/-- The order of 60_exceptions.md R214 for the kinds an instruction rule raises. -/
def faultPriority : List FaultKind :=
  [.illegalOpcode, .illegalOperand, .stackUnderflow, .arithmeticFault, .unknownVariable, .callStackUnderflow,
    .callStackOverflow, .stackOverflow, .inputParseFailure]

/-- The fault 60_exceptions.md R214 says is reported: the earliest cause present. -/
def firstFault (i : Instr) (s : State) : Option FaultKind := faultPriority.find? (faultCause i s)

/-- The state with the variables of every frame but the current one replaced: `root` for the root frame,
`outer` for the frames between, where the current frame is not the root frame. -/
def withOuterVars (root : Memory) (outer : List Memory) (s : State) : State :=
  match s.calls with
  | [] => s
  | f :: rest =>
    { s with
      rootVars := root
      calls := f :: List.zipWith (fun m (g : Frame) => { g with vars := m }) outer rest }

/-- `u` is `s` but for the variables of the root frame and of the `k` oldest frames made by `CALL`: the younger frames, the
return addresses and every other field agree (10_state.md R28). -/
def AgreeAbove (k : Nat) (s u : State) : Prop :=
  ∃ top low low' : List Frame,
    s.calls = top ++ low ∧ u.calls = top ++ low' ∧ low.length = k ∧
      low'.map Frame.ra = low.map Frame.ra ∧ u = { s with rootVars := u.rootVars, calls := u.calls }

/-- 44_branches.md R160 to R162: a jump whose condition in `s` is `cond`, over all its forms. The fault does not depend on the
condition. -/
def JumpsWhen (cond : Bool) (i : Value → Byte → Instr) (s : State) : Prop :=
  ∀ (a : Value) (b : Byte),
    exec (i a b) s = .next
      (if s8 b = 0 ∨ s8 b = 1 ∨ s8 b = 2 then
        if cond = true then
          { s with
            pc := if s8 b = 0 then s16 a else if s8 b = 1 then s.pc + s16 a else s.pc - s16 a
            jumped := true }
        else { s with pc := s.pc + 1, jumped := false }
      else Faulted .illegalOperand s)

end Sys2Proof.Machine
end

