-- ==== Sys2Proof/Certificates/Slice0/Obligations.lean ====
section
/-! DEFINITION. The statements for the provers, from the numbered rules of spec/. A statement written as `exec i s = .next t` with `t` a
record update of `s` says its frame with it: every field the update does not name is unchanged. -/

open Sys2Proof Sys2Proof.Machine

/-! ### The codec -/

/-- 30_encoding.md R77: `decode` is the exact left inverse of `encode` for all 25 opcodes and all operand values, and a right
inverse exactly on the words with an assigned ordinal; any other word comes back with ordinal 1. What is said of the right inverse is the
spec's own inference there ("a different word [derived: from rules R73, R74 and R75]"). -/
def Obligations.DecodeEncodeRoundTrip : Prop :=
  (∀ i : Instr, decode (encode i) = i) ∧
  (∀ w : Word, encode (decode w) = w ↔ (w.extractLsb' 24 8).toNat ≤ 24) ∧
  (∀ w : Word, 25 ≤ (w.extractLsb' 24 8).toNat →
    encode (decode w) = (1#8 ++ w.extractLsb' 0 24 : BitVec 32)) ∧
  encode (.sub 0 0) = 0x07000000#32 ∧ decode 0x07000000#32 = .sub 0 0 ∧
  decode 0xFF123456#32 = .ilg 4660 86

/-- 30_encoding.md R74 and R72: decoding reads `operand1` and `operand2` as the signed numbers in bits 23:8 and 7:0 whatever the
opcode, and selects the opcode by the ordinal alone, `ILG` (ordinal 1) for 25 .. 255. -/
def Obligations.DecodeReadsFields : Prop :=
  ∀ w : Word,
    (decode w).operand1 = w.extractLsb' 8 16 ∧ (decode w).operand2 = w.extractLsb' 0 8 ∧
    s16 (decode w).operand1 = (w.extractLsb' 8 16).toInt ∧ s8 (decode w).operand2 = (w.extractLsb' 0 8).toInt ∧
    (decode w).ordinal =
      if (w.extractLsb' 24 8).toNat ≤ 24 then w.extractLsb' 24 8 else (1 : BitVec 8)

/-- 30_encoding.md R73: `encode` is `Ord * 2^24 + u16(operand1) * 2^8 + u8(operand2)`, and injective. -/
def Obligations.EncodePacksFieldsInjectively : Prop :=
  (∀ i : Instr, (encode i).toNat = i.ordinal.toNat * 2 ^ 24 + u16 i.operand1 * 2 ^ 8 + u8 i.operand2) ∧
  (∀ i j : Instr, encode i = encode j → i = j)

/-- 20_memory.md R53: the big-endian byte conversion and its two round trips. -/
def Obligations.WordBytesRoundTrip : Prop :=
  (∀ w : Word, wordToBytes w =
    { b0 := w.extractLsb' 24 8, b1 := w.extractLsb' 16 8, b2 := w.extractLsb' 8 8, b3 := w.extractLsb' 0 8 }) ∧
  (∀ q : WordBytes,
    (bytesToWord q).toNat = q.b0.toNat * 2 ^ 24 + q.b1.toNat * 2 ^ 16 + q.b2.toNat * 2 ^ 8 + q.b3.toNat) ∧
  (∀ w : Word, bytesToWord (wordToBytes w) = w) ∧
  (∀ q : WordBytes, wordToBytes (bytesToWord q) = q) ∧
  wordToBytes 0x04000A00#32 = { b0 := 0x04, b1 := 0x00, b2 := 0x0A, b3 := 0x00 }

/-- 30_encoding.md R71 and R75 on a few words, one of each family and one unassigned ordinal. -/
def Obligations.SpecWordsDecode : Prop :=
  decode 0x00000000#32 = .halt 0 0 ∧ decode 0x19ABCD12#32 = .ilg 0xABCD 0x12 ∧
  decode 0x04FFFF00#32 = .push (-1) 0 ∧ decode 0x07000000#32 = .sub 0 0 ∧
  decode 0x0CFFFC02#32 = .jmp (-4) 2 ∧ decode 0x140000FF#32 = .stdout 0 (-1) ∧
  decode 0x15000100#32 = .load 1 0 ∧ decode 0x18800080#32 = .ret (-32768) (-128)

/-- 00_scope.md R11: the integer readings of 16-bit and 8-bit patterns. -/
def Obligations.IntegerReadings : Prop :=
  (∀ v : Value, -32768 ≤ s16 v ∧ s16 v ≤ 32767 ∧ u16 v < 65536 ∧ s16 v % 65536 = (u16 v : Int) ∧
    wrap16 (s16 v) = v) ∧
  (∀ z : Int, s16 (wrap16 z) = (z + 32768) % 65536 - 32768) ∧
  (∀ c : Byte, -128 ≤ s8 c ∧ s8 c ≤ 127 ∧ u8 c < 256 ∧ s8 c % 256 = (u8 c : Int) ∧ wrap8 (s8 c) = c) ∧
  (∀ z : Int, s8 (wrap8 z) = (z + 128) % 256 - 128)

/-! ### The step -/

/-- 40_execution_cycle.md R102, R103, R105: a running core whose `pc` holds a word executes the instruction that word decodes to,
and nothing is added around it. -/
def Obligations.StepRunsDecodedInstruction : Prop :=
  ∀ (s : State) (w : Word), s.runState = .running → 0 ≤ s.pc → s.program[s.pc.toNat]? = some w →
    step s = exec (decode w) s

/-- 40_execution_cycle.md R101: a running core with `pc` outside the program raises `PcOutOfRange` with no word fetched, and one
inside it fetches `Program[pc]`. -/
def Obligations.FetchOutsideProgramFaults : Prop :=
  (∀ s : State, s.runState = .running → (s.pc < 0 ∨ (s.program.length : Int) ≤ s.pc) →
    ∃ t, step s = .next t ∧
      t = { s with runState := .terminated (.fault .pcOutOfRange s.pc none), jumped := false } ∧
      t.statusFaultAddr = BitVec.ofInt 32 s.pc ∧ t.statusFaultInstrValid = 0) ∧
  (∀ s : State, 0 ≤ s.pc → s.pc < s.program.length → s.fetchWord = s.program[s.pc.toNat]?)

/-- 40_execution_cycle.md R108: with an empty program the first step after reset raises `PcOutOfRange` at address 0
(the spec's own inference, "derived: from rule R101 and 10_state.md rule R36"). -/
def Obligations.EmptyProgramFaultsAtZero : Prop :=
  ∀ s : State, s.program = [] →
    ∃ t, step (resetCore s) = .next t ∧ t.runState = .terminated (.fault .pcOutOfRange 0 none)

/-- 10_state.md R30: after reset the core is `Running` at 0; `Terminated` is absorbing, for any number of step requests, and
reset leaves it. -/
def Obligations.TerminatedIsAbsorbing : Prop :=
  (State.reset.runState = .running ∧ State.reset.pc = 0) ∧
  (∀ (s : State) (o : RunOutcome), s.runState = .terminated o →
    step s = .next s ∧ ∀ n, runSteps n s = s) ∧
  (∀ s : State, (resetCore s).runState = .running ∧ (resetCore s).pc = 0)

/-- 40_execution_cycle.md R100 and 60_exceptions.md R216: every step of every state, and every instruction in every state, has a next state.
Two parts of it are the model's form: a fault is a next state in `Terminated` (notes/assumptions/5.md), and a waiting `STDIN`, whose
step R110 and 45_io.md R181 call not enabled, answers the unchanged state (notes/assumptions/6.md). -/
def Obligations.EveryStepHasNextState : Prop :=
  (∀ s : State, ∃ t, step s = .next t) ∧ (∀ (i : Instr) (s : State), ∃ t, exec i s = .next t)

/-! ### HALT, ILG and the stack operations -/

/-- 41_halt_illegal.md R120. -/
def Obligations.HaltYieldsTop : Prop :=
  encode (.halt 0 0) = 0x00000000#32 ∧
  ∀ (a : Value) (b : Byte) (s : State),
    exec (.halt a b) s = .next
      { s with
        runState := .terminated (.success (match s.stack with | [] => 0 | v :: _ => v))
        jumped := false }

/-- 41_halt_illegal.md R121: `ILG` always takes `IllegalOpcode`, at `pc`, with the raw word, and changes nothing else. -/
def Obligations.IlgRaisesIllegalOpcode : Prop :=
  encode (.ilg 0 0) = 0x01000000#32 ∧
  (∀ w : Word, 25 ≤ (w.extractLsb' 24 8).toNat → ∃ a b, decode w = .ilg a b) ∧
  (∀ (a : Value) (b : Byte) (s : State),
    exec (.ilg a b) s = .next
      { s with runState := .terminated (.fault .illegalOpcode s.pc s.fetchWord), jumped := false })

/-- 42_stack_ops.md R130: `LEN` pushes the depth before its own push, or raises `StackOverflow`. -/
def Obligations.LenPushesDepth : Prop :=
  encode (.len 0 0) = 0x02000000#32 ∧
  ∀ (a : Value) (b : Byte) (s : State),
    (s.stack.length = s.params.stackDepth → exec (.len a b) s = .next (Faulted .stackOverflow s)) ∧
    (s.stack.length < s.params.stackDepth →
      exec (.len a b) s = .next
        { s with stack := wrap16 s.stack.length :: s.stack, pc := s.pc + 1, jumped := false }) ∧
    (s.stack.length < s.params.stackDepth → s.params.stackDepth ≤ 32767 →
      s16 (wrap16 s.stack.length) = s.stack.length)

/-- 42_stack_ops.md R131. -/
def Obligations.PopDiscardsTop : Prop :=
  encode (.pop 0 0) = 0x03000000#32 ∧
  ∀ (a : Value) (b : Byte) (s : State),
    (s.stack = [] → exec (.pop a b) s = .next (Faulted .stackUnderflow s)) ∧
    (∀ v rest, s.stack = v :: rest →
      exec (.pop a b) s = .next { s with stack := rest, pc := s.pc + 1, jumped := false })

/-- 42_stack_ops.md R132: the 16-bit pattern of `operand1` is pushed unchanged, no flag is written. -/
def Obligations.PushPushesOperand : Prop :=
  (∀ (a : Value) (b : Byte), encode (.push a b) = (0x04#8 ++ a ++ b : BitVec 32)) ∧
  ∀ (a : Value) (b : Byte) (s : State),
    (s.stack.length = s.params.stackDepth → exec (.push a b) s = .next (Faulted .stackOverflow s)) ∧
    (s.stack.length < s.params.stackDepth →
      exec (.push a b) s = .next { s with stack := a :: s.stack, pc := s.pc + 1, jumped := false })

/-- 42_stack_ops.md R133: underflow before overflow; with a capacity of at least 1 they never coincide. -/
def Obligations.DupCopiesTop : Prop :=
  encode (.dup 0 0) = 0x05000000#32 ∧
  ∀ (a : Value) (b : Byte) (s : State),
    (s.stack = [] → exec (.dup a b) s = .next (Faulted .stackUnderflow s)) ∧
    (∀ v rest, s.stack = v :: rest →
      (s.stack.length = s.params.stackDepth → exec (.dup a b) s = .next (Faulted .stackOverflow s)) ∧
      (s.stack.length < s.params.stackDepth →
        exec (.dup a b) s = .next { s with stack := v :: s.stack, pc := s.pc + 1, jumped := false })) ∧
    (1 ≤ s.params.stackDepth → ¬ (s.stack.length = 0 ∧ s.stack.length = s.params.stackDepth))

/-! ### Arithmetic and compare -/

/-- 43_arithmetic.md R141: the flag update, from the 16-bit result; each of the six instructions that completes makes it from
the result it pushed, and a faulting instruction writes no flag. -/
def Obligations.FlagUpdateRule : Prop :=
  (∀ (r : Value) (s : State), s16 r = 0 → updateFlags r s = { s with zero := true }) ∧
  (∀ (r : Value) (s : State), 1 ≤ s16 r → updateFlags r s = { s with zero := false, sign := true }) ∧
  (∀ (r : Value) (s : State), s16 r ≤ -1 → updateFlags r s = { s with zero := false, sign := false }) ∧
  (∀ (i : Instr) (s t : State), i.writesFlags = true → s.runState = .running → exec i s = .next t →
    t.runState = .running →
      ∃ r below, t.stack = r :: below ∧ t.zero = (updateFlags r s).zero ∧ t.sign = (updateFlags r s).sign) ∧
  (∀ (i : Instr) (s t : State) (k : FaultKind) (a : Int) (w : Option Word),
    exec i s = .next t → s.runState = .running → t.runState = .terminated (.fault k a w) →
      t.zero = s.zero ∧ t.sign = s.sign)

/-- 43_arithmetic.md R140, R141, R142: `ADD`. -/
def Obligations.AddResult : Prop :=
  encode (.add 0 0) = 0x06000000#32 ∧
  ∀ (a : Value) (b : Byte) (s : State),
    (s.stack.length < 2 → exec (.add a b) s = .next (Faulted .stackUnderflow s)) ∧
    (∀ n1 n2 below, s.stack = n1 :: n2 :: below →
      exec (.add a b) s = .next
        { s with
          stack := wrap16 (s16 n2 + s16 n1) :: below
          zero := decide (s16 (wrap16 (s16 n2 + s16 n1)) = 0)
          sign := if s16 (wrap16 (s16 n2 + s16 n1)) = 0 then s.sign
            else decide (0 < s16 (wrap16 (s16 n2 + s16 n1)))
          pc := s.pc + 1
          jumped := false })

/-- 43_arithmetic.md R140, R141, R143: `SUB`, the earlier-pushed value minus the top. -/
def Obligations.SubResult : Prop :=
  encode (.sub 0 0) = 0x07000000#32 ∧
  ∀ (a : Value) (b : Byte) (s : State),
    (s.stack.length < 2 → exec (.sub a b) s = .next (Faulted .stackUnderflow s)) ∧
    (∀ n1 n2 below, s.stack = n1 :: n2 :: below →
      exec (.sub a b) s = .next
        { s with
          stack := wrap16 (s16 n2 - s16 n1) :: below
          zero := decide (s16 (wrap16 (s16 n2 - s16 n1)) = 0)
          sign := if s16 (wrap16 (s16 n2 - s16 n1)) = 0 then s.sign
            else decide (0 < s16 (wrap16 (s16 n2 - s16 n1)))
          pc := s.pc + 1
          jumped := false })

/-- 43_arithmetic.md R140, R141, R144: `MUL`, the low 16 bits of the product. -/
def Obligations.MulResult : Prop :=
  encode (.mul 0 0) = 0x08000000#32 ∧
  ∀ (a : Value) (b : Byte) (s : State),
    (s.stack.length < 2 → exec (.mul a b) s = .next (Faulted .stackUnderflow s)) ∧
    (∀ n1 n2 below, s.stack = n1 :: n2 :: below →
      exec (.mul a b) s = .next
        { s with
          stack := wrap16 (s16 n2 * s16 n1) :: below
          zero := decide (s16 (wrap16 (s16 n2 * s16 n1)) = 0)
          sign := if s16 (wrap16 (s16 n2 * s16 n1)) = 0 then s.sign
            else decide (0 < s16 (wrap16 (s16 n2 * s16 n1)))
          pc := s.pc + 1
          jumped := false })

/-- 43_arithmetic.md R140, R141, R145: `DIV`, truncating; underflow before the zero divisor. -/
def Obligations.DivResult : Prop :=
  encode (.div 0 0) = 0x09000000#32 ∧
  ∀ (a : Value) (b : Byte) (s : State),
    (s.stack.length < 2 → exec (.div a b) s = .next (Faulted .stackUnderflow s)) ∧
    (∀ n1 n2 below, s.stack = n1 :: n2 :: below → s16 n1 = 0 →
      exec (.div a b) s = .next (Faulted .arithmeticFault s)) ∧
    (∀ n1 n2 below, s.stack = n1 :: n2 :: below → s16 n1 ≠ 0 →
      exec (.div a b) s = .next
        { s with
          stack := wrap16 (Int.tdiv (s16 n2) (s16 n1)) :: below
          zero := decide (s16 (wrap16 (Int.tdiv (s16 n2) (s16 n1))) = 0)
          sign := if s16 (wrap16 (Int.tdiv (s16 n2) (s16 n1))) = 0 then s.sign
            else decide (0 < s16 (wrap16 (Int.tdiv (s16 n2) (s16 n1))))
          pc := s.pc + 1
          jumped := false })

/-- 43_arithmetic.md R140, R141, R146: `MOD`, `n2 - trunc(n2 / n1) * n1`, zero or of the sign of `n2` and of magnitude below that of
`n1`. -/
def Obligations.ModResult : Prop :=
  encode (.mod 0 0) = 0x0A000000#32 ∧
  (∀ n2 n1 : Value, s16 n1 ≠ 0 →
    ∃ r : Value, r = wrap16 (s16 n2 - Int.tdiv (s16 n2) (s16 n1) * s16 n1) ∧
      (s16 r = 0 ∨ (0 < s16 r ∧ 0 < s16 n2) ∨ (s16 r < 0 ∧ s16 n2 < 0)) ∧
      (s16 r).natAbs < (s16 n1).natAbs) ∧
  ∀ (a : Value) (b : Byte) (s : State),
    (s.stack.length < 2 → exec (.mod a b) s = .next (Faulted .stackUnderflow s)) ∧
    (∀ n1 n2 below, s.stack = n1 :: n2 :: below → s16 n1 = 0 →
      exec (.mod a b) s = .next (Faulted .arithmeticFault s)) ∧
    (∀ n1 n2 below, s.stack = n1 :: n2 :: below → s16 n1 ≠ 0 →
      ∃ r : Value, r = wrap16 (s16 n2 - Int.tdiv (s16 n2) (s16 n1) * s16 n1) ∧
        exec (.mod a b) s = .next
          { s with
            stack := r :: below
            zero := decide (s16 r = 0)
            sign := if s16 r = 0 then s.sign else decide (0 < s16 r)
            pc := s.pc + 1
            jumped := false })

/-- 43_arithmetic.md R147: `CMP` and `SUB` give the same next state in every state; what the flags then mean when the difference does
not overflow. -/
def Obligations.CmpEqualsSub : Prop :=
  encode (.cmp 0 0) = 0x0B000000#32 ∧
  (∀ (a a' : Value) (b b' : Byte) (s : State), exec (.cmp a b) s = exec (.sub a' b') s) ∧
  (∀ (a : Value) (b : Byte) (s : State), s.stack.length < 2 →
    exec (.cmp a b) s = .next (Faulted .stackUnderflow s)) ∧
  (∀ (a : Value) (b : Byte) (s : State) (right left : Value) (below : List Value),
    s.stack = right :: left :: below →
      ∃ t, exec (.cmp a b) s = .next t ∧ t.stack = wrap16 (s16 left - s16 right) :: below ∧
        t.pc = s.pc + 1 ∧ t.jumped = false ∧
        (-32768 ≤ s16 left - s16 right → s16 left - s16 right ≤ 32767 →
          (s16 left = s16 right → t.zero = true ∧ t.sign = s.sign) ∧
          (s16 right < s16 left → t.zero = false ∧ t.sign = true) ∧
          (s16 left < s16 right → t.zero = false ∧ t.sign = false)))

/-- 43_arithmetic.md R148 (b): quotient times divisor plus remainder is the dividend, but for the one case that overflows. -/
def Obligations.QuotientAndRemainderLaw : Prop :=
  (∀ a b : Value, s16 b ≠ 0 → ¬ (s16 a = -32768 ∧ s16 b = -1) →
    s16 (opDiv a b) * s16 b + s16 (opMod a b) = s16 a) ∧
  (∀ a b : Value, s16 a = -32768 → s16 b = -1 → s16 (opDiv a b) = -32768 ∧ s16 (opMod a b) = 0)

/-! ### Branches -/

/-- 44_branches.md R163: `JMP`, in its three modes and outside them. -/
def Obligations.JmpAlwaysJumps : Prop :=
  (∀ (a : Value) (b : Byte), encode (.jmp a b) = (0x0C#8 ++ a ++ b : BitVec 32)) ∧
  ∀ (a : Value) (b : Byte) (s : State),
    (s8 b = 0 → exec (.jmp a b) s = .next { s with pc := s16 a, jumped := true }) ∧
    (s8 b = 1 → exec (.jmp a b) s = .next { s with pc := s.pc + s16 a, jumped := true }) ∧
    (s8 b = 2 → exec (.jmp a b) s = .next { s with pc := s.pc - s16 a, jumped := true }) ∧
    (s8 b ≠ 0 → s8 b ≠ 1 → s8 b ≠ 2 → exec (.jmp a b) s = .next (Faulted .illegalOperand s))

/-- 44_branches.md R164, R165: `JE` is taken iff `zero = 1`, `JNE` iff `zero = 0`. -/
def Obligations.JumpsOnZero : Prop :=
  (∀ (a : Value) (b : Byte), encode (.je a b) = (0x0D#8 ++ a ++ b : BitVec 32) ∧
    encode (.jne a b) = (0x0E#8 ++ a ++ b : BitVec 32)) ∧
  ∀ s : State, JumpsWhen s.zero .je s ∧ JumpsWhen (!s.zero) .jne s

/-- 44_branches.md R166, R167: `JG` is taken iff `sign = 1`, `JL` iff `sign = 0`, `zero` not consulted. -/
def Obligations.JumpsOnSign : Prop :=
  (∀ (a : Value) (b : Byte), encode (.jg a b) = (0x0F#8 ++ a ++ b : BitVec 32) ∧
    encode (.jl a b) = (0x10#8 ++ a ++ b : BitVec 32)) ∧
  ∀ s : State, JumpsWhen s.sign .jg s ∧ JumpsWhen (!s.sign) .jl s

/-- 44_branches.md R168, R169: `JGE` is taken iff `sign = 1 or zero = 1`, `JLE` iff `sign = 0 or zero = 1`, in the same three
modes. -/
def Obligations.JumpsOnSignOrZero : Prop :=
  (∀ (a : Value) (b : Byte), encode (.jge a b) = (0x11#8 ++ a ++ b : BitVec 32) ∧
    encode (.jle a b) = (0x12#8 ++ a ++ b : BitVec 32)) ∧
  ∀ s : State, JumpsWhen (s.sign || s.zero) .jge s ∧ JumpsWhen (!s.sign || s.zero) .jle s

/-- 44_branches.md R170: what the six conditions mean after a `CMP` whose difference does not overflow. `JG` and `JL` on equal
operands depend on the `sign` before (the spec's own inference, "derived: from rule R162 and 43_arithmetic.md rule R141"). -/
def Obligations.ConditionsAfterCompare : Prop :=
  ∀ (a : Value) (b : Byte) (s t : State) (right left : Value) (below : List Value),
    s.stack = right :: left :: below → -32768 ≤ s16 left - s16 right → s16 left - s16 right ≤ 32767 →
    exec (.cmp a b) s = .next t →
      (t.condE = decide (s16 left = s16 right)) ∧ (t.condNE = decide (s16 left ≠ s16 right)) ∧
      (t.condGE = decide (s16 right ≤ s16 left)) ∧ (t.condLE = decide (s16 left ≤ s16 right)) ∧
      (t.condG = if s16 left = s16 right then s.sign else decide (s16 right < s16 left)) ∧
      (t.condL = if s16 left = s16 right then !s.sign else decide (s16 left < s16 right))

/-! ### Input and output -/

/-- 45_io.md R181, R182: `STDIN`, in the order its conditions are tested; with no response ready it changes nothing, which is
the model's form of a step that is not enabled (notes/assumptions/6.md). -/
def Obligations.StdinTakesResponse : Prop :=
  encode (.stdin 0 0) = 0x13000000#32 ∧
  ∀ (a : Value) (b : Byte) (s : State),
    (s.stack.length = s.params.stackDepth → exec (.stdin a b) s = .next (Faulted .stackOverflow s)) ∧
    (s.stack.length < s.params.stackDepth →
      (s.input = [] → exec (.stdin a b) s = .next s) ∧
      (∀ rest, s.input = .parseFail :: rest →
        exec (.stdin a b) s = .next (Faulted .inputParseFailure { s with input := rest })) ∧
      (∀ v rest, s.input = .value v :: rest →
        exec (.stdin a b) s = .next
          { s with stack := v :: s.stack, input := rest, pc := s.pc + 1, jumped := false }))

/-- 45_io.md R184: `STDOUT`, in the order its conditions are tested; the top stays on the stack. -/
def Obligations.StdoutEmitsEvent : Prop :=
  (∀ (a : Value) (b : Byte), encode (.stdout a b) = (0x14#8 ++ a ++ b : BitVec 32)) ∧
  ∀ (a : Value) (b : Byte) (s : State),
    (s8 b < 0 ∨ 3 < s8 b → exec (.stdout a b) s = .next (Faulted .illegalOperand s)) ∧
    (0 ≤ s8 b → s8 b ≤ 3 → s.stack = [] → exec (.stdout a b) s = .next (Faulted .stackUnderflow s)) ∧
    (∀ v rest, s.stack = v :: rest →
      (s8 b = 0 → exec (.stdout a b) s = .next
        { s with output := s.output ++ [.dec v], pc := s.pc + 1, jumped := false }) ∧
      (s8 b = 1 → exec (.stdout a b) s = .next
        { s with output := s.output ++ [.charNl (v.extractLsb' 0 8)], pc := s.pc + 1, jumped := false }) ∧
      (s8 b = 2 → exec (.stdout a b) s = .next
        { s with output := s.output ++ [.raw (v.extractLsb' 0 8)], pc := s.pc + 1, jumped := false }) ∧
      (s8 b = 3 → exec (.stdout a b) s = .next
        { s with output := s.output ++ [.char (v.extractLsb' 0 8)], pc := s.pc + 1, jumped := false }))

/-- 45_io.md R185: the bytes of each event, its flushing, and which bytes are visible at the device. -/
def Obligations.OutputBytesAndFlushing : Prop :=
  (∀ (v : Value) (c : Byte), OutEvent.flushes (.dec v) = false ∧ OutEvent.flushes (.charNl c) = false ∧
    OutEvent.flushes (.raw c) = true ∧ OutEvent.flushes (.char c) = true) ∧
  (∀ c : Byte, OutEvent.bytes (.raw c) = [c] ∧ OutEvent.bytes (.charNl c) = OutEvent.bytes (.char c) ++ [0x0A] ∧
    (c.toNat ≤ 0x7F → OutEvent.bytes (.char c) = [c]) ∧
    (0x80 ≤ c.toNat → OutEvent.bytes (.char c) =
      [0b110000#6 ++ c.extractLsb' 6 2, 0b10#2 ++ c.extractLsb' 0 6])) ∧
  (∀ (es : List OutEvent) (e : OutEvent), e.flushes = true → flushedEvents (es ++ [e]) = es ++ [e]) ∧
  (∀ (es : List OutEvent) (e : OutEvent), e.flushes = false → flushedEvents (es ++ [e]) = flushedEvents es) ∧
  (∀ (s : State) (o : RunOutcome), s.runState = .terminated o → s.visibleBytes = outputBytes s.output) ∧
  (∀ (a : Value) (b : Byte) (s t : State), s.runState = .running → (s8 b = 2 ∨ s8 b = 3) →
    exec (.stdout a b) s = .next t → t.runState = .running → t.visibleBytes = outputBytes t.output)

/-- 45_io.md R185 and 92_eei_decisions.md D20: the decimal text of every value is read back as that value by the default `ParseLine`. The white space
that the default trims is the model's (notes/assumptions/7.md). -/
def Obligations.DecimalTextParsesBack : Prop :=
  (∀ v : Value, parseLineDefault (some (OutEvent.bytes (.dec v))) = .value v) ∧
  OutEvent.bytes (.dec (-4)) = [0x2D, 0x34, 0x0A] ∧ OutEvent.bytes (.dec 0) = [0x30, 0x0A] ∧
  OutEvent.bytes (.dec (-32768)) = [0x2D, 0x33, 0x32, 0x37, 0x36, 0x38, 0x0A]

/-! ### Variables, CALL and RETURN -/

/-- 46_variables.md R190: `LOAD`, an unbound slot outranking a full stack; only the current frame is read. -/
def Obligations.LoadPushesVariable : Prop :=
  (∀ (a : Value) (b : Byte), encode (.load a b) = (0x15#8 ++ a ++ b : BitVec 32)) ∧
  (∀ s : State, s.curVars = match s.calls with | [] => s.rootVars | f :: _ => f.vars) ∧
  ∀ (a : Value) (b : Byte) (s : State),
    (Memory.read s.curVars a.toNat = none → exec (.load a b) s = .next (Faulted .unknownVariable s)) ∧
    (∀ v, Memory.read s.curVars a.toNat = some v →
      (s.stack.length = s.params.stackDepth → exec (.load a b) s = .next (Faulted .stackOverflow s)) ∧
      (s.stack.length < s.params.stackDepth →
        exec (.load a b) s = .next { s with stack := v :: s.stack, pc := s.pc + 1, jumped := false }))

/-- 46_variables.md R191: `STORE` binds the slot in the current frame, and no other slot and no other frame changes. -/
def Obligations.StoreBindsVariable : Prop :=
  (∀ (a : Value) (b : Byte), encode (.store a b) = (0x16#8 ++ a ++ b : BitVec 32)) ∧
  ∀ (a : Value) (b : Byte) (s : State),
    (s.stack = [] → exec (.store a b) s = .next (Faulted .stackUnderflow s)) ∧
    (∀ v rest, s.stack = v :: rest →
      ∃ t, exec (.store a b) s = .next t ∧
        (∀ slot, Memory.read t.curVars slot =
          if slot = a.toNat then some v else Memory.read s.curVars slot) ∧
        (s.calls = [] → t.calls = []) ∧
        (∀ f outer, s.calls = f :: outer →
          t.rootVars = s.rootVars ∧ ∃ m, t.calls = { f with vars := m } :: outer) ∧
        t = { s with
          stack := rest, pc := s.pc + 1, jumped := false, rootVars := t.rootVars, calls := t.calls })

/-- 47_call_return.md R200: `CALL` pushes an empty frame with its own address and jumps; the caller's frames are kept. -/
def Obligations.CallPushesFrame : Prop :=
  (∀ (a : Value) (b : Byte), encode (.call a b) = (0x17#8 ++ a ++ b : BitVec 32)) ∧
  ∀ (a : Value) (b : Byte) (s : State),
    (s8 b ≠ 0 → s8 b ≠ 1 → s8 b ≠ 2 → exec (.call a b) s = .next (Faulted .illegalOperand s)) ∧
    (s8 b = 0 ∨ s8 b = 1 ∨ s8 b = 2 →
      (s.calls.length + 1 = s.params.frameDepth → exec (.call a b) s = .next (Faulted .callStackOverflow s)) ∧
      (s.calls.length + 1 < s.params.frameDepth →
        exec (.call a b) s = .next
          { s with
            calls := { vars := [], ra := s.pc } :: s.calls
            pc := if s8 b = 0 then s16 a else if s8 b = 1 then s.pc + s16 a else s.pc - s16 a
            jumped := true }))

/-- 47_call_return.md R201: `RETURN` drops the current frame and goes to the address after its `CALL`, not jumped. -/
def Obligations.ReturnDropsFrame : Prop :=
  encode (.ret 0 0) = 0x18000000#32 ∧
  ∀ (a : Value) (b : Byte) (s : State),
    (s.calls = [] → exec (.ret a b) s = .next (Faulted .callStackUnderflow s)) ∧
    (∀ f rest, s.calls = f :: rest →
      exec (.ret a b) s = .next { s with calls := rest, pc := f.ra + 1, jumped := false })

/-- 47_call_return.md R202 (the spec's own inference, "derived: from rules R200 and R201"): a `RETURN` in a state whose frames are those a `CALL` left, whatever the callee did to its own
variables, the stack, the flags and `pc`, resumes after that `CALL` with the caller's frames, the root frame among them, as they were. -/
def Obligations.ReturnResumesAfterCall : Prop :=
  ∀ (a a' : Value) (b b' : Byte) (s t u : State) (m : Memory) (f : Frame) (outer : List Frame),
    exec (.call a b) s = .next t → t.jumped = true → t.calls = f :: outer →
    u.calls = { f with vars := m } :: outer → u.rootVars = t.rootVars →
      outer = s.calls ∧ t.rootVars = s.rootVars ∧
      exec (.ret a' b') u = .next
        { u with calls := s.calls, rootVars := s.rootVars, pc := s.pc + 1, jumped := false }

/-- 10_state.md R28, 47_call_return.md R200: no instruction changes a frame under the current one: it leaves the frames, changes the current frame's
variables only, pushes one frame, or drops one. -/
def Obligations.OuterFramesNeverWritten : Prop :=
  ∀ (i : Instr) (s t : State), exec i s = .next t →
    (t.calls = s.calls ∧ (s.calls ≠ [] → t.rootVars = s.rootVars)) ∨
    (∃ f outer m, s.calls = f :: outer ∧ t.calls = { f with vars := m } :: outer ∧ t.rootVars = s.rootVars) ∨
    (∃ a b, i = .call a b ∧ t.calls = { vars := [], ra := s.pc } :: s.calls ∧ t.rootVars = s.rootVars) ∨
    (∃ a b f, i = .ret a b ∧ s.calls = f :: t.calls ∧ t.rootVars = s.rootVars)

/-- 10_state.md R28 ("variables are not visible across call boundaries in either direction"), by comparing two runs. Replacing
the variables of all frames under the current one gives a state that agrees above them (`AgreeAbove`). Two states that differ
only in the variables of the root frame and of the `k` oldest frames above it, with a younger frame current, differ only so after
the same instruction, and after a step; so the relation lasts until the current frame is one of those `k`. But for
`RETURN` the frames then current read the same. -/
def Obligations.OuterVariablesInvisible : Prop :=
  (∀ (s : State) (f : Frame) (rest : List Frame) (root : Memory) (outer : List Memory),
    s.calls = f :: rest → outer.length = rest.length → AgreeAbove rest.length s (withOuterVars root outer s)) ∧
  (∀ (i : Instr) (k : Nat) (s t u v : State), AgreeAbove k s u → k < s.calls.length →
    exec i s = .next t → exec i u = .next v →
      AgreeAbove k t v ∧ ((∀ a b, i ≠ .ret a b) → v.curVars = t.curVars)) ∧
  (∀ (k : Nat) (s t u v : State), AgreeAbove k s u → k < s.calls.length →
    step s = .next t → step u = .next v → AgreeAbove k t v)

/-! ### Faults -/

/-- 60_exceptions.md R213 and R212: a faulting step changes nothing but the run state, the record and the `jumped` report, and a `STDIN` that
raises `InputParseFailure`, and no other faulting step, has consumed one response. -/
def Obligations.FaultsArePrecise : Prop :=
  ∀ (s t : State) (k : FaultKind) (a : Int) (w : Option Word),
    s.runState = .running → step s = .next t → t.runState = .terminated (.fault k a w) →
      t = { s with runState := .terminated (.fault k s.pc s.fetchWord), jumped := false, input := t.input } ∧
      (if k = .inputParseFailure then s.input = .parseFail :: t.input else t.input = s.input)

/-- 60_exceptions.md R212: the fault record as the host reads it, for a step that raises `k`, with the
codes of 60_exceptions.md R211. -/
def Obligations.FaultRecordFields : Prop :=
  (FaultKind.code .illegalOpcode = 1 ∧ FaultKind.code .stackUnderflow = 2 ∧ FaultKind.code .callStackUnderflow = 3 ∧
    FaultKind.code .unknownVariable = 4 ∧ FaultKind.code .inputParseFailure = 5 ∧ FaultKind.code .arithmeticFault = 6 ∧
    FaultKind.code .misalignedBinary = 7 ∧ FaultKind.code .pcOutOfRange = 8 ∧ FaultKind.code .illegalOperand = 9 ∧
    FaultKind.code .stackOverflow = 10 ∧ FaultKind.code .callStackOverflow = 11) ∧
  ∀ (s t : State) (k : FaultKind) (a : Int) (w : Option Word),
    s.runState = .running → step s = .next t → t.runState = .terminated (.fault k a w) →
      a = s.pc ∧ w = s.fetchWord ∧
      t.statusRunstate = 2 ∧ t.statusFaultKind = k.code ∧ t.statusFaultAddr = BitVec.ofInt 32 s.pc ∧
      t.statusResult = 0 ∧
      (∀ v, s.fetchWord = some v →
        t.statusFaultInstrValid = 1 ∧ t.statusFaultInstr = v ∧ t.faultInstruction = some (decode v)) ∧
      (s.fetchWord = none →
        k = .pcOutOfRange ∧ t.statusFaultInstrValid = 0 ∧ t.statusFaultInstr = 0)

/-- 60_exceptions.md R214: of the causes present the earliest in the list is reported, and with none present no fault is raised. The causes
are those of R211's table (`faultCause`), written independently of the meanings. -/
def Obligations.EarliestCauseIsReported : Prop :=
  faultPriority = [.illegalOpcode, .illegalOperand, .stackUnderflow, .arithmeticFault, .unknownVariable,
    .callStackUnderflow, .callStackOverflow, .stackOverflow, .inputParseFailure] ∧
  (∀ (i : Instr) (s t : State), s.runState = .running → exec i s = .next t →
    match firstFault i s with
    | some k => t.runState = .terminated (.fault k s.pc s.fetchWord)
    | none => ∀ k a w, t.runState ≠ .terminated (.fault k a w)) ∧
  (∀ s : State, s.runState = .running → s.fetchWord = none →
    ∃ t, step s = .next t ∧ t.runState = .terminated (.fault .pcOutOfRange s.pc none))

/-- 60_exceptions.md R215: an instruction raises only the faults of its row (the spec's own inference,
"derived: from the instruction rules of files 41 to 47"). -/
def Obligations.FaultsOfEachInstruction : Prop :=
  ∀ (i : Instr) (s t : State) (k : FaultKind) (a : Int) (w : Option Word),
    s.runState = .running → exec i s = .next t → t.runState = .terminated (.fault k a w) → k ∈ i.mayRaise

/-- 30_encoding.md R80, R81 and 92_eei_decisions.md D11: whether an instruction raises `IllegalOpcode` or `IllegalOperand` is decided by the word
alone. -/
def Obligations.LegalityDependsOnWordAlone : Prop :=
  ∀ (i : Instr) (s t : State), s.runState = .running → exec i s = .next t →
    (i.wellFormed = false ↔
      t.runState = .terminated (.fault .illegalOpcode s.pc s.fetchWord) ∨
      t.runState = .terminated (.fault .illegalOperand s.pc s.fetchWord))

/-! ### Whole-machine rules -/

/-- 10_state.md R26: the flags are written by `ADD SUB MUL DIV MOD CMP` only, and read only by the conditional jumps: changing a flag that an
instruction does not read changes nothing of its next state but flags. -/
def Obligations.FlagWritersAndReaders : Prop :=
  (∀ (i : Instr) (s t : State), i.writesFlags = false → exec i s = .next t → t.zero = s.zero ∧ t.sign = s.sign) ∧
  (∀ (i : Instr) (s t u : State) (z : Bool), i.readsZero = false →
    exec i s = .next t → exec i { s with zero := z } = .next u → u = { t with zero := u.zero }) ∧
  (∀ (i : Instr) (s t u : State) (g : Bool), i.readsSign = false →
    exec i s = .next t → exec i { s with sign := g } = .next u → u = { t with sign := u.sign })

/-- 10_state.md R32 and 00_scope.md R15: no step changes the program or the capacities, which are parameters of the step. That they stand in
`State` as fields no step changes is the model's choice (notes/assumptions/1.md, 2.md). -/
def Obligations.ProgramNeverChanges : Prop :=
  ∀ (s : State) (n : Nat), (runSteps n s).program = s.program ∧ (runSteps n s).params = s.params

/-- 20_memory.md R60: a step appends at most one output event, at the end, and consumes at most one response, from the front; `STDOUT` and
`STDIN` alone do. -/
def Obligations.ChannelsMoveInOrder : Prop :=
  ∀ (i : Instr) (s t : State), exec i s = .next t →
    (t.output = s.output ∨ ∃ a b e, i = .stdout a b ∧ t.output = s.output ++ [e]) ∧
    (t.input = s.input ∨ ∃ a b r, i = .stdin a b ∧ s.input = r :: t.input)

/-- 45_io.md R181 and 20_memory.md R60: a response delivered before a step or after it makes no difference, unless the core waits for it; a
waiting core's step changes nothing, and it stops waiting when one is delivered; reset leaves the responses with the environment. That a
waiting step is an unchanged next state is the model's form of R181 (notes/assumptions/3.md, 6.md). -/
def Obligations.DeliveryTimeIsInvisible : Prop :=
  (∀ (s t : State) (r : InResponse), s.waiting = false → step s = .next t →
    step (deliver r s) = .next (deliver r t)) ∧
  (∀ s : State, s.waiting = true → step s = .next s ∧ ∀ r, (deliver r s).waiting = false) ∧
  (∀ s : State, (resetCore s).input = s.input)

/-- 40_execution_cycle.md R109 (the spec's own inference, "each of which is a function"): a run that ends does so with the same outcome and the same events whatever further responses are queued
behind those it consumed. The queue is the model's form of the oracle of 00_scope.md R15 (notes/assumptions/3.md). -/
def Obligations.RunIgnoresLaterInput : Prop :=
  ∀ (s : State) (n : Nat) (o : RunOutcome) (rs : List InResponse), (runSteps n s).runState = .terminated o →
    runSteps n { s with input := s.input ++ rs } =
      { runSteps n s with input := (runSteps n s).input ++ rs }

/-- 40_execution_cycle.md R107: a run has at most one outcome, and its last step before it is a `HALT`, a faulting instruction, or a fetch outside
the program. -/
def Obligations.RunEndsOnceInThreeWays : Prop :=
  (∀ (s : State) (o o' : RunOutcome), EndsWith s o → EndsWith s o' → o = o') ∧
  (∀ (s t : State) (o : RunOutcome), s.runState = .running → step s = .next t → t.runState = .terminated o →
    (∃ a b w v, s.fetchWord = some w ∧ decode w = .halt a b ∧ o = .success v) ∨
    (∃ k w, s.fetchWord = some w ∧ k ∈ (decode w).mayRaise ∧ o = .fault k s.pc (some w)) ∨
    (s.fetchWord = none ∧ o = .fault .pcOutOfRange s.pc none))

/-! ### Invariants and reset -/

/-- 10_state.md R35 (the spec's own inference, "derived: from rules R22, R24, R27 and R29"): every step keeps the bounds on the stacks, the return addresses and `pc`. -/
def Obligations.StepKeepsBounds : Prop :=
  ∀ s t : State, s.WithinBounds → step s = .next t → t.WithinBounds

/-- 10_state.md R35, R28 and 60_exceptions.md R212 at reset: the bounds hold, the variables are canonical, the record is sound. The capacities of
`State.reset` are the model's choice (notes/assumptions/2.md), so the second clause says it for every allowed choice. -/
def Obligations.ResetMeetsInvariants : Prop :=
  (State.reset.WithinBounds ∧ State.reset.MemoryCanonical ∧ State.reset.RecordSound) ∧
  ∀ s : State, s.params.Allowed → s.progLen ≤ maxProgLen →
    (resetCore s).WithinBounds ∧ (resetCore s).MemoryCanonical ∧ (resetCore s).RecordSound

/-- 10_state.md R35 (the spec's own inference, "derived: from rules R22, R24, R27 and R29"): every state reachable from reset. The
clauses on `ra_valid`, on the number of frames and on `1 <= fdepth` hold by the shape of `State` (notes/assumptions/4.md). -/
def Obligations.ReachableStatesWithinBounds : Prop :=
  ∀ (s0 s : State) (n : Nat), s0.params.Allowed → s0.progLen ≤ maxProgLen → s = runSteps n (resetCore s0) →
    s.depth ≤ s.params.stackDepth ∧ 1 ≤ s.fdepth ∧ s.fdepth ≤ s.params.frameDepth ∧
    s.frames.length = s.fdepth ∧ (s.frames[0]?.map FrameView.raValid = some false) ∧
    (∀ (j : Nat) (f : FrameView), 1 ≤ j → s.frames[j]? = some f →
      f.raValid = true ∧ 0 ≤ f.ra ∧ f.ra < s.progLen) ∧
    -32768 ≤ s.pc ∧ s.pc ≤ s.progLen + 32767

/-- 10_state.md R28: every step keeps the canonical form of every frame's variables, the model's form of the mapping
(notes/assumptions/9.md). -/
def Obligations.StepKeepsMemoryCanonical : Prop :=
  ∀ s t : State, s.MemoryCanonical → step s = .next t → t.MemoryCanonical

/-- 60_exceptions.md R211, R212, R213: every step keeps the fault record in agreement with the state; in particular the core never raises
`MisalignedBinary`, and a word is missing exactly for `PcOutOfRange`. -/
def Obligations.StepKeepsRecordSound : Prop :=
  ∀ s t : State, s.RecordSound → step s = .next t → t.RecordSound

/-- 10_state.md R36 and 70_reset_and_hazards.md R240: the value of every field after reset, in any state; the program stays (R242). R36 marks its row
of `F[0].vars` as the spec's own inference (derived: a "fresh" frame stack); R240 states it ("no slot bound"). -/
def Obligations.ResetValues : Prop :=
  ∀ s : State,
    (resetCore s).pc = 0 ∧ (resetCore s).depth = 0 ∧ (resetCore s).zero = false ∧ (resetCore s).sign = false ∧
    (resetCore s).fdepth = 1 ∧ (∀ slot, varRead slot (resetCore s) = none) ∧
    (resetCore s).frames.map FrameView.raValid = [false] ∧ (resetCore s).runState = .running ∧
    (resetCore s).statusRunstate = 0 ∧ (resetCore s).statusResult = 0 ∧ (resetCore s).statusFaultKind = 0 ∧
    (resetCore s).statusFaultAddr = 0 ∧ (resetCore s).statusFaultInstrValid = 0 ∧
    (resetCore s).statusFaultInstr = 0 ∧ (resetCore s).statusJumped = 0 ∧ (resetCore s).output = [] ∧
    (resetCore s).program = s.program

/-- 70_reset_and_hazards.md R244: what a program can rely on at its first instruction (the spec's own inference, "derived: from
rule R240"). -/
def Obligations.FirstInstructionAfterReset : Prop :=
  ∀ (s : State) (i : Instr) (w : Word) (rest : List Word),
    s.program = w :: rest → decode w = i →
    ∃ t, step (resetCore s) = .next t ∧
      (1 ≤ i.needs → i.modeUndefined = false → t.runState = .terminated (.fault .stackUnderflow 0 (some w))) ∧
      ((∃ a b, i = .load a b) → t.runState = .terminated (.fault .unknownVariable 0 (some w))) ∧
      ((∃ a b, i = .ret a b) → t.runState = .terminated (.fault .callStackUnderflow 0 (some w))) ∧
      (∀ a b, s8 b = 0 ∨ s8 b = 1 ∨ s8 b = 2 → i = .jne a b ∨ i = .jl a b ∨ i = .jle a b → t.jumped = true) ∧
      (∀ a b, s8 b = 0 ∨ s8 b = 1 ∨ s8 b = 2 → i = .je a b ∨ i = .jg a b ∨ i = .jge a b →
        t.pc = 1 ∧ t.jumped = false ∧ t.runState = .running)

/-- 20_memory.md R55 and 70_reset_and_hazards.md R245: a file loads iff its length is a multiple of 4, as its big-endian words in order, and the core starts reset on
it; any other length is `MisalignedBinary`, which the core itself never raises. -/
def Obligations.LoaderReadsBigEndianWords : Prop :=
  (∀ (s t : State) (a : Int) (w : Option Word), s.runState = .running → step s = .next t →
    t.runState ≠ .terminated (.fault .misalignedBinary a w)) ∧
  ∀ (bytes : List Byte) (s : State),
    (bytes.length % 4 ≠ 0 → loadFile bytes s = .error .misalignedBinary) ∧
    (bytes.length % 4 = 0 →
      ∃ t, loadFile bytes s = .ok t ∧ t = resetCore { s with program := t.program } ∧
        4 * t.progLen = bytes.length ∧
        ∀ (j : Nat) (b0 b1 b2 b3 : Byte),
          bytes[4 * j]? = some b0 → bytes[4 * j + 1]? = some b1 → bytes[4 * j + 2]? = some b2 →
          bytes[4 * j + 3]? = some b3 →
          t.program[j]? = some (bytesToWord { b0 := b0, b1 := b1, b2 := b2, b3 := b3 }))
end

