-- ==== Sys2Proof/Laws/Codec.lean ====
section
/-! SUPPORT. The fields of a packed word, and the opcode an ordinal selects (30_encoding.md R71 to R77). -/

namespace Sys2Proof

@[simp] theorem ordinalField_packWord (o : Byte) (a : Value) (b : Byte) : ordinalField (packWord o a b) = o := by
  apply BitVec.eq_of_getLsbD_eq
  intro j hj
  simp only [ordinalField, packWord, BitVec.getLsbD_extractLsb', BitVec.getLsbD_append]
  have h1 : ¬ 24 + j < 8 := by omega
  have h2 : ¬ 24 + j - 8 < 16 := by omega
  have h3 : 24 + j - 8 - 16 = j := by omega
  simp [hj, h1, h2, h3]

@[simp] theorem operand1Field_packWord (o : Byte) (a : Value) (b : Byte) : operand1Field (packWord o a b) = a := by
  apply BitVec.eq_of_getLsbD_eq
  intro j hj
  simp only [operand1Field, packWord, BitVec.getLsbD_extractLsb', BitVec.getLsbD_append]
  have h1 : ¬ 8 + j < 8 := by omega
  have h3 : 8 + j - 8 = j := by omega
  simp [hj, h1, h3]

@[simp] theorem operand2Field_packWord (o : Byte) (a : Value) (b : Byte) : operand2Field (packWord o a b) = b := by
  apply BitVec.eq_of_getLsbD_eq
  intro j hj
  simp only [operand2Field, packWord, BitVec.getLsbD_extractLsb', BitVec.getLsbD_append]
  simp [hj]

/-- A word is its three fields. -/
theorem packWord_fields (w : Word) : packWord (ordinalField w) (operand1Field w) (operand2Field w) = w := by
  apply BitVec.eq_of_getLsbD_eq
  intro j hj
  simp only [packWord, ordinalField, operand1Field, operand2Field, BitVec.getLsbD_extractLsb', BitVec.getLsbD_append]
  by_cases h1 : j < 8
  · simp [h1]
  · by_cases h2 : j - 8 < 16
    · have : 8 + (j - 8) = j := by omega
      simp [h1, h2, this]
    · have h3 : 24 + (j - 8 - 16) = j := by omega
      have h4 : j - 8 - 16 < 8 := by omega
      simp [h1, h2, h3, h4]

/-- The operand fields do not depend on the ordinal (30_encoding.md R74). -/
@[simp] theorem operand1_opcodeOf (n : Nat) (a : Value) (b : Byte) : (opcodeOf n a b).operand1 = a := by
  unfold opcodeOf; split <;> rfl

@[simp] theorem operand2_opcodeOf (n : Nat) (a : Value) (b : Byte) : (opcodeOf n a b).operand2 = b := by
  unfold opcodeOf; split <;> rfl

/-- Every ordinal outside the table gives `ILG` (30_encoding.md R76). -/
theorem opcodeOf_unassigned (n : Nat) (a : Value) (b : Byte) (h : 25 ≤ n) : opcodeOf n a b = .ilg a b := by
  unfold opcodeOf; split <;> first | omega | rfl

/-- An assigned ordinal is that of the opcode it selects (30_encoding.md R75). -/
theorem ordinal_opcodeOf (n : Nat) (a : Value) (b : Byte) (h : n ≤ 24) :
    (opcodeOf n a b).ordinal = BitVec.ofNat 8 n := by
  interval_cases n <;> rfl

/-- The ordinal of an opcode selects it (30_encoding.md R75). -/
theorem opcodeOf_ordinal (i : Instr) : opcodeOf i.ordinal.toNat i.operand1 i.operand2 = i := by
  cases i <;> rfl

end Sys2Proof
end

