-- ==== Sys2Proof/Laws/State.lean ====
section
/-! SUPPORT. One lemma per field per update of the state: what each named update writes and what it leaves. -/

namespace Sys2Proof.Machine

@[simp] theorem push_params (v : Value) (s : State) : (push v s).params = s.params := rfl
@[simp] theorem push_program (v : Value) (s : State) : (push v s).program = s.program := rfl
@[simp] theorem push_pc (v : Value) (s : State) : (push v s).pc = s.pc := rfl
@[simp] theorem push_stack (v : Value) (s : State) : (push v s).stack = v :: s.stack := rfl
@[simp] theorem push_zero (v : Value) (s : State) : (push v s).zero = s.zero := rfl
@[simp] theorem push_sign (v : Value) (s : State) : (push v s).sign = s.sign := rfl
@[simp] theorem push_rootVars (v : Value) (s : State) : (push v s).rootVars = s.rootVars := rfl
@[simp] theorem push_calls (v : Value) (s : State) : (push v s).calls = s.calls := rfl
@[simp] theorem push_runState (v : Value) (s : State) : (push v s).runState = s.runState := rfl
@[simp] theorem push_jumped (v : Value) (s : State) : (push v s).jumped = s.jumped := rfl
@[simp] theorem push_input (v : Value) (s : State) : (push v s).input = s.input := rfl
@[simp] theorem push_output (v : Value) (s : State) : (push v s).output = s.output := rfl

@[simp] theorem emit_params (e : OutEvent) (s : State) : (emit e s).params = s.params := rfl
@[simp] theorem emit_program (e : OutEvent) (s : State) : (emit e s).program = s.program := rfl
@[simp] theorem emit_pc (e : OutEvent) (s : State) : (emit e s).pc = s.pc := rfl
@[simp] theorem emit_stack (e : OutEvent) (s : State) : (emit e s).stack = s.stack := rfl
@[simp] theorem emit_zero (e : OutEvent) (s : State) : (emit e s).zero = s.zero := rfl
@[simp] theorem emit_sign (e : OutEvent) (s : State) : (emit e s).sign = s.sign := rfl
@[simp] theorem emit_rootVars (e : OutEvent) (s : State) : (emit e s).rootVars = s.rootVars := rfl
@[simp] theorem emit_calls (e : OutEvent) (s : State) : (emit e s).calls = s.calls := rfl
@[simp] theorem emit_runState (e : OutEvent) (s : State) : (emit e s).runState = s.runState := rfl
@[simp] theorem emit_jumped (e : OutEvent) (s : State) : (emit e s).jumped = s.jumped := rfl
@[simp] theorem emit_input (e : OutEvent) (s : State) : (emit e s).input = s.input := rfl
@[simp] theorem emit_output (e : OutEvent) (s : State) : (emit e s).output = s.output ++ [e] := rfl

@[simp] theorem advance_params (s : State) : (advance s).params = s.params := rfl
@[simp] theorem advance_program (s : State) : (advance s).program = s.program := rfl
@[simp] theorem advance_pc (s : State) : (advance s).pc = s.pc + 1 := rfl
@[simp] theorem advance_stack (s : State) : (advance s).stack = s.stack := rfl
@[simp] theorem advance_zero (s : State) : (advance s).zero = s.zero := rfl
@[simp] theorem advance_sign (s : State) : (advance s).sign = s.sign := rfl
@[simp] theorem advance_rootVars (s : State) : (advance s).rootVars = s.rootVars := rfl
@[simp] theorem advance_calls (s : State) : (advance s).calls = s.calls := rfl
@[simp] theorem advance_runState (s : State) : (advance s).runState = s.runState := rfl
@[simp] theorem advance_jumped (s : State) : (advance s).jumped = false := rfl
@[simp] theorem advance_input (s : State) : (advance s).input = s.input := rfl
@[simp] theorem advance_output (s : State) : (advance s).output = s.output := rfl

@[simp] theorem jumpTo_params (a : Int) (s : State) : (jumpTo a s).params = s.params := rfl
@[simp] theorem jumpTo_program (a : Int) (s : State) : (jumpTo a s).program = s.program := rfl
@[simp] theorem jumpTo_pc (a : Int) (s : State) : (jumpTo a s).pc = a := rfl
@[simp] theorem jumpTo_stack (a : Int) (s : State) : (jumpTo a s).stack = s.stack := rfl
@[simp] theorem jumpTo_zero (a : Int) (s : State) : (jumpTo a s).zero = s.zero := rfl
@[simp] theorem jumpTo_sign (a : Int) (s : State) : (jumpTo a s).sign = s.sign := rfl
@[simp] theorem jumpTo_rootVars (a : Int) (s : State) : (jumpTo a s).rootVars = s.rootVars := rfl
@[simp] theorem jumpTo_calls (a : Int) (s : State) : (jumpTo a s).calls = s.calls := rfl
@[simp] theorem jumpTo_runState (a : Int) (s : State) : (jumpTo a s).runState = s.runState := rfl
@[simp] theorem jumpTo_jumped (a : Int) (s : State) : (jumpTo a s).jumped = true := rfl
@[simp] theorem jumpTo_input (a : Int) (s : State) : (jumpTo a s).input = s.input := rfl
@[simp] theorem jumpTo_output (a : Int) (s : State) : (jumpTo a s).output = s.output := rfl

@[simp] theorem haltWith_params (v : Value) (s : State) : (haltWith v s).params = s.params := rfl
@[simp] theorem haltWith_program (v : Value) (s : State) : (haltWith v s).program = s.program := rfl
@[simp] theorem haltWith_pc (v : Value) (s : State) : (haltWith v s).pc = s.pc := rfl
@[simp] theorem haltWith_stack (v : Value) (s : State) : (haltWith v s).stack = s.stack := rfl
@[simp] theorem haltWith_zero (v : Value) (s : State) : (haltWith v s).zero = s.zero := rfl
@[simp] theorem haltWith_sign (v : Value) (s : State) : (haltWith v s).sign = s.sign := rfl
@[simp] theorem haltWith_rootVars (v : Value) (s : State) : (haltWith v s).rootVars = s.rootVars := rfl
@[simp] theorem haltWith_calls (v : Value) (s : State) : (haltWith v s).calls = s.calls := rfl
@[simp] theorem haltWith_runState (v : Value) (s : State) : (haltWith v s).runState = .terminated (.success v) := rfl
@[simp] theorem haltWith_jumped (v : Value) (s : State) : (haltWith v s).jumped = false := rfl
@[simp] theorem haltWith_input (v : Value) (s : State) : (haltWith v s).input = s.input := rfl
@[simp] theorem haltWith_output (v : Value) (s : State) : (haltWith v s).output = s.output := rfl

@[simp] theorem raiseFault_params (k : FaultKind) (s : State) : (raiseFault k s).params = s.params := rfl
@[simp] theorem raiseFault_program (k : FaultKind) (s : State) : (raiseFault k s).program = s.program := rfl
@[simp] theorem raiseFault_pc (k : FaultKind) (s : State) : (raiseFault k s).pc = s.pc := rfl
@[simp] theorem raiseFault_stack (k : FaultKind) (s : State) : (raiseFault k s).stack = s.stack := rfl
@[simp] theorem raiseFault_zero (k : FaultKind) (s : State) : (raiseFault k s).zero = s.zero := rfl
@[simp] theorem raiseFault_sign (k : FaultKind) (s : State) : (raiseFault k s).sign = s.sign := rfl
@[simp] theorem raiseFault_rootVars (k : FaultKind) (s : State) : (raiseFault k s).rootVars = s.rootVars := rfl
@[simp] theorem raiseFault_calls (k : FaultKind) (s : State) : (raiseFault k s).calls = s.calls := rfl
@[simp] theorem raiseFault_runState (k : FaultKind) (s : State) : (raiseFault k s).runState = .terminated (.fault k s.pc s.fetchWord) := rfl
@[simp] theorem raiseFault_jumped (k : FaultKind) (s : State) : (raiseFault k s).jumped = false := rfl
@[simp] theorem raiseFault_input (k : FaultKind) (s : State) : (raiseFault k s).input = s.input := rfl
@[simp] theorem raiseFault_output (k : FaultKind) (s : State) : (raiseFault k s).output = s.output := rfl

@[simp] theorem deliver_params (r : InResponse) (s : State) : (deliver r s).params = s.params := rfl
@[simp] theorem deliver_program (r : InResponse) (s : State) : (deliver r s).program = s.program := rfl
@[simp] theorem deliver_pc (r : InResponse) (s : State) : (deliver r s).pc = s.pc := rfl
@[simp] theorem deliver_stack (r : InResponse) (s : State) : (deliver r s).stack = s.stack := rfl
@[simp] theorem deliver_zero (r : InResponse) (s : State) : (deliver r s).zero = s.zero := rfl
@[simp] theorem deliver_sign (r : InResponse) (s : State) : (deliver r s).sign = s.sign := rfl
@[simp] theorem deliver_rootVars (r : InResponse) (s : State) : (deliver r s).rootVars = s.rootVars := rfl
@[simp] theorem deliver_calls (r : InResponse) (s : State) : (deliver r s).calls = s.calls := rfl
@[simp] theorem deliver_runState (r : InResponse) (s : State) : (deliver r s).runState = s.runState := rfl
@[simp] theorem deliver_jumped (r : InResponse) (s : State) : (deliver r s).jumped = s.jumped := rfl
@[simp] theorem deliver_input (r : InResponse) (s : State) : (deliver r s).input = s.input ++ [r] := rfl
@[simp] theorem deliver_output (r : InResponse) (s : State) : (deliver r s).output = s.output := rfl

@[simp] theorem resetCore_params (s : State) : (resetCore s).params = s.params := rfl
@[simp] theorem resetCore_program (s : State) : (resetCore s).program = s.program := rfl
@[simp] theorem resetCore_pc (s : State) : (resetCore s).pc = 0 := rfl
@[simp] theorem resetCore_stack (s : State) : (resetCore s).stack = [] := rfl
@[simp] theorem resetCore_zero (s : State) : (resetCore s).zero = false := rfl
@[simp] theorem resetCore_sign (s : State) : (resetCore s).sign = false := rfl
@[simp] theorem resetCore_rootVars (s : State) : (resetCore s).rootVars = [] := rfl
@[simp] theorem resetCore_calls (s : State) : (resetCore s).calls = [] := rfl
@[simp] theorem resetCore_runState (s : State) : (resetCore s).runState = .running := rfl
@[simp] theorem resetCore_jumped (s : State) : (resetCore s).jumped = false := rfl
@[simp] theorem resetCore_input (s : State) : (resetCore s).input = s.input := rfl
@[simp] theorem resetCore_output (s : State) : (resetCore s).output = [] := rfl

@[simp] theorem updateFlags_params (r : Value) (s : State) : (updateFlags r s).params = s.params := by
  unfold updateFlags; split <;> rfl
@[simp] theorem updateFlags_program (r : Value) (s : State) : (updateFlags r s).program = s.program := by
  unfold updateFlags; split <;> rfl
@[simp] theorem updateFlags_pc (r : Value) (s : State) : (updateFlags r s).pc = s.pc := by
  unfold updateFlags; split <;> rfl
@[simp] theorem updateFlags_stack (r : Value) (s : State) : (updateFlags r s).stack = s.stack := by
  unfold updateFlags; split <;> rfl
@[simp] theorem updateFlags_zero (r : Value) (s : State) : (updateFlags r s).zero = decide (s16 r = 0) := by
  unfold updateFlags; split <;> simp [*]
@[simp] theorem updateFlags_sign (r : Value) (s : State) :
    (updateFlags r s).sign = if s16 r = 0 then s.sign else decide (0 < s16 r) := by
  unfold updateFlags; split <;> rfl
@[simp] theorem updateFlags_rootVars (r : Value) (s : State) : (updateFlags r s).rootVars = s.rootVars := by
  unfold updateFlags; split <;> rfl
@[simp] theorem updateFlags_calls (r : Value) (s : State) : (updateFlags r s).calls = s.calls := by
  unfold updateFlags; split <;> rfl
@[simp] theorem updateFlags_runState (r : Value) (s : State) : (updateFlags r s).runState = s.runState := by
  unfold updateFlags; split <;> rfl
@[simp] theorem updateFlags_jumped (r : Value) (s : State) : (updateFlags r s).jumped = s.jumped := by
  unfold updateFlags; split <;> rfl
@[simp] theorem updateFlags_input (r : Value) (s : State) : (updateFlags r s).input = s.input := by
  unfold updateFlags; split <;> rfl
@[simp] theorem updateFlags_output (r : Value) (s : State) : (updateFlags r s).output = s.output := by
  unfold updateFlags; split <;> rfl

@[simp] theorem setCurVars_params (m : Memory) (s : State) : (setCurVars m s).params = s.params := by
  unfold setCurVars; split <;> rfl
@[simp] theorem setCurVars_program (m : Memory) (s : State) : (setCurVars m s).program = s.program := by
  unfold setCurVars; split <;> rfl
@[simp] theorem setCurVars_pc (m : Memory) (s : State) : (setCurVars m s).pc = s.pc := by
  unfold setCurVars; split <;> rfl
@[simp] theorem setCurVars_stack (m : Memory) (s : State) : (setCurVars m s).stack = s.stack := by
  unfold setCurVars; split <;> rfl
@[simp] theorem setCurVars_zero (m : Memory) (s : State) : (setCurVars m s).zero = s.zero := by
  unfold setCurVars; split <;> rfl
@[simp] theorem setCurVars_sign (m : Memory) (s : State) : (setCurVars m s).sign = s.sign := by
  unfold setCurVars; split <;> rfl
@[simp] theorem setCurVars_rootVars (m : Memory) (s : State) :
    (setCurVars m s).rootVars = if s.calls = [] then m else s.rootVars := by
  unfold setCurVars; split <;> simp [*]
theorem setCurVars_calls_nil (m : Memory) (s : State) (h : s.calls = []) : (setCurVars m s).calls = [] := by
  simp [setCurVars, h]
theorem setCurVars_calls_cons (m : Memory) (s : State) (f : Frame) (rest : List Frame) (h : s.calls = f :: rest) :
    (setCurVars m s).calls = { f with vars := m } :: rest := by
  simp [setCurVars, h]
@[simp] theorem setCurVars_runState (m : Memory) (s : State) : (setCurVars m s).runState = s.runState := by
  unfold setCurVars; split <;> rfl
@[simp] theorem setCurVars_jumped (m : Memory) (s : State) : (setCurVars m s).jumped = s.jumped := by
  unfold setCurVars; split <;> rfl
@[simp] theorem setCurVars_input (m : Memory) (s : State) : (setCurVars m s).input = s.input := by
  unfold setCurVars; split <;> rfl
@[simp] theorem setCurVars_output (m : Memory) (s : State) : (setCurVars m s).output = s.output := by
  unfold setCurVars; split <;> rfl

/-- The current frame's variables after they are replaced. -/
@[simp] theorem curVars_setCurVars (m : Memory) (s : State) : (setCurVars m s).curVars = m := by
  cases h : s.calls <;> simp [setCurVars, State.curVars, h]

/-- A fault as a record update of the state it is raised in. -/
theorem raiseFault_eq (k : FaultKind) (s : State) :
    raiseFault k s = { s with runState := .terminated (.fault k s.pc s.fetchWord), jumped := false } := rfl

/-- The flag update as one record update. -/
theorem updateFlags_eq (r : Value) (s : State) :
    updateFlags r s =
      { s with
        zero := decide (s16 r = 0)
        sign := if s16 r = 0 then s.sign else decide (0 < s16 r) } := by
  unfold updateFlags; split <;> simp [*]

/-- The word fetched depends on the program and `pc` alone. -/
theorem fetchWord_congr (s t : State) (hp : t.program = s.program) (hpc : t.pc = s.pc) :
    t.fetchWord = s.fetchWord := by
  simp only [State.fetchWord, hp, hpc]

end Sys2Proof.Machine
end

