-- ==== Sys2Proof/Laws/Memory.lean ====
section
/-! SUPPORT. The variables of a frame: a read after a write, and the canonical form kept (10_state.md R28). -/

namespace Sys2Proof.Machine

/-- What a slot reads as after a write to `slot` (10_state.md R28: no other slot is touched). -/
theorem Memory.read_write (m : Memory) (slot : Nat) (v : Value) (k : Nat) :
    Memory.read (Memory.write m slot v) k = if k = slot then some v else Memory.read m k := by
  induction m with
  | nil => simp [Memory.write, Memory.read]
  | cons c rest ih =>
    obtain ⟨k', x⟩ := c
    unfold Memory.write
    split
    · simp [Memory.read]
    · split
      · rename_i h; subst h
        simp only [Memory.read]
        split <;> simp_all
      · rename_i h1 h2
        simp only [Memory.read, ih]
        by_cases hk : k = k'
        · have : k ≠ slot := by omega
          simp [hk]; omega
        · simp [hk]

/-- The slots of a mapping after a write are the earlier ones and the one written. -/
theorem Memory.mem_write (m : Memory) (slot : Nat) (v : Value) (c : Nat × Value) (h : c ∈ Memory.write m slot v) :
    c.1 = slot ∨ c ∈ m := by
  induction m with
  | nil => simp [Memory.write] at h; simp [h]
  | cons d rest ih =>
    obtain ⟨k', x⟩ := d
    unfold Memory.write at h
    split at h
    · simp at h; rcases h with rfl | h <;> simp [*]
    · split at h
      · simp at h; rcases h with rfl | h <;> simp [*]
      · simp at h
        rcases h with rfl | h
        · simp
        · rcases ih h with h | h <;> simp [h]

/-- A write keeps the canonical form. -/
theorem Memory.wf_write (m : Memory) (slot : Nat) (v : Value) (hs : slot < 65536) (h : Memory.wf m) :
    Memory.wf (Memory.write m slot v) := by
  induction m with
  | nil => simp [Memory.write, Memory.wf, hs]
  | cons d rest ih =>
    obtain ⟨k', x⟩ := d
    obtain ⟨hp, hb⟩ := h
    simp only [List.map_cons, List.pairwise_cons, List.mem_cons, forall_eq_or_imp] at hp hb
    have hrest : Memory.wf rest := ⟨hp.2, hb.2⟩
    unfold Memory.write
    split
    · rename_i hlt
      refine ⟨?_, ?_⟩
      · simp only [List.map_cons, List.pairwise_cons, List.mem_cons, forall_eq_or_imp]
        exact ⟨⟨hlt, fun a ha => lt_trans hlt (hp.1 a ha)⟩, hp.1, hp.2⟩
      · simp only [List.mem_cons, forall_eq_or_imp]
        exact ⟨hs, hb.1, hb.2⟩
    · split
      · rename_i heq; subst heq
        exact ⟨by simpa using hp, by simpa using hb⟩
      · rename_i h1 h2
        have hw := ih hrest
        refine ⟨?_, ?_⟩
        · simp only [List.map_cons, List.pairwise_cons, List.mem_map]
          refine ⟨?_, hw.1⟩
          rintro a ⟨c, hc, rfl⟩
          rcases Memory.mem_write rest slot v c hc with h | h
          · omega
          · exact hp.1 c.1 (List.mem_map_of_mem h)
        · simp only [List.mem_cons, forall_eq_or_imp]
          exact ⟨hb.1, hw.2⟩

/-- A slot identifier is below 65536. -/
theorem u16_lt (v : Value) : u16 v < 65536 := v.isLt

/-- `STORE`'s write keeps the canonical form of the frame it writes. -/
theorem wf_varWrite (slot v : Value) (s : State) (h : Memory.wf s.curVars) :
    Memory.wf (varWrite slot v s).curVars := by
  simpa [varWrite] using Memory.wf_write _ _ v (u16_lt slot) h

/-- Reset's memory has the canonical form. -/
theorem reset_rootVars_wf : Memory.wf State.reset.rootVars := by decide

/-- Equal reads of canonical mappings are equal mappings: the form is canonical. -/
theorem Memory.read_eq_none_of_lt (m : Memory) (k : Nat) (h : ∀ c ∈ m, k < c.1) : Memory.read m k = none := by
  induction m with
  | nil => rfl
  | cons d rest ih =>
    obtain ⟨k', x⟩ := d
    have hk : k < k' := h (k', x) (by simp)
    have : k ≠ k' := by omega
    simp only [Memory.read, this, if_false]
    exact ih fun c hc => h c (by simp [hc])

theorem Memory.ext_of_wf (m m' : Memory) (h : Memory.wf m) (h' : Memory.wf m')
    (heq : ∀ k, Memory.read m k = Memory.read m' k) : m = m' := by
  induction m generalizing m' with
  | nil =>
    cases m' with
    | nil => rfl
    | cons d rest => have := heq d.1; simp [Memory.read] at this
  | cons d rest ih =>
    obtain ⟨k, x⟩ := d
    cases m' with
    | nil => have := heq k; simp [Memory.read] at this
    | cons d' rest' =>
      obtain ⟨k', x'⟩ := d'
      obtain ⟨hp, hb⟩ := h
      obtain ⟨hp', hb'⟩ := h'
      simp only [List.map_cons, List.pairwise_cons, List.mem_map, forall_exists_index, and_imp,
        forall_apply_eq_imp_iff₂] at hp hp'
      have hk : k = k' := by
        rcases lt_trichotomy k k' with hlt | he | hgt
        · have h1 := heq k
          rw [Memory.read_eq_none_of_lt ((k', x') :: rest') k] at h1
          · simp [Memory.read] at h1
          · intro c hc
            rcases List.mem_cons.mp hc with rfl | hc
            · exact hlt
            · exact lt_trans hlt (hp'.1 c hc)
        · exact he
        · have h1 := heq k'
          rw [Memory.read_eq_none_of_lt ((k, x) :: rest) k'] at h1
          · simp [Memory.read] at h1
          · intro c hc
            rcases List.mem_cons.mp hc with rfl | hc
            · exact hgt
            · exact lt_trans hgt (hp.1 c hc)
      subst hk
      have hx : x = x' := by have := heq k; simpa [Memory.read] using this
      subst hx
      have : rest = rest' := by
        refine ih rest' ⟨hp.2, fun c hc => hb c (by simp [hc])⟩ ⟨hp'.2, fun c hc => hb' c (by simp [hc])⟩ ?_
        intro j
        by_cases hj : j = k
        · subst hj
          rw [Memory.read_eq_none_of_lt rest j hp.1, Memory.read_eq_none_of_lt rest' j hp'.1]
        · have := heq j; simpa [Memory.read, hj] using this
      rw [this]

end Sys2Proof.Machine
end

