-- ==== Sys2Proof/Laws/Ops.lean ====
section
/-! SUPPORT. One lemma per shared operation, saying everything it can do: the fetch, the modes, the pushes, the branches,
the binary operations. -/

namespace Sys2Proof.Machine

/-- Inside the program `ProgRead` is the word at the address (20_memory.md R51). -/
theorem progRead_of_nonneg (p : List Word) (a : Int) (h : 0 ≤ a) : progRead p a = p[a.toNat]? := by
  simp [progRead, h]

/-- `ProgRead` has no value exactly outside the program (20_memory.md R51). -/
theorem progRead_eq_none (p : List Word) (a : Int) : progRead p a = none ↔ a < 0 ∨ (p.length : Int) ≤ a := by
  unfold progRead
  split
  · simp only [List.getElem?_eq_none_iff]; omega
  · simp; omega

/-- A fetched word is at an address of the program (40_execution_cycle.md R101). -/
theorem pc_range_of_fetchWord (s : State) (w : Word) (h : s.fetchWord = some w) :
    0 ≤ s.pc ∧ s.pc < s.program.length := by
  have : ¬ s.fetchWord = none := by simp [h]
  rw [State.fetchWord, progRead_eq_none] at this
  omega

/-- The modes with a meaning are 0, 1 and 2 (44_branches.md R161). -/
theorem branchMode_eq_none (b : Byte) : branchMode b = none ↔ branchModeLegal b = false := by
  revert b; decide

/-- The modes of `STDOUT` with a meaning are 0 to 3 (45_io.md R184). -/
theorem outMode_eq_none (b : Byte) : outMode b = none ↔ outModeLegal b = false := by
  revert b; decide

/-- A full stack, as an inequality (10_state.md R24). -/
@[simp] theorem stackFull_iff (s : State) : s.stackFull = true ↔ s.params.stackDepth ≤ s.stack.length :=
  decide_eq_true_iff

@[simp] theorem stackFull_false_iff (s : State) : s.stackFull = false ↔ s.stack.length < s.params.stackDepth :=
  decide_eq_false_iff_not.trans Nat.not_le

/-- A full frame stack, as an inequality (10_state.md R27). -/
@[simp] theorem framesFull_iff (s : State) : s.framesFull = true ↔ s.params.frameDepth ≤ s.calls.length + 1 :=
  decide_eq_true_iff

@[simp] theorem framesFull_false_iff (s : State) : s.framesFull = false ↔ s.calls.length + 1 < s.params.frameDepth :=
  decide_eq_false_iff_not.trans Nat.not_le

/-- Pushing answers `StackOverflow` on a full stack, else the value on top and the ordinary advance
(10_state.md R24). -/
theorem pushAndAdvance_next (v : Value) (s t : State) (h : pushAndAdvance v s = .next t) :
    (s.params.stackDepth ≤ s.stack.length ∧ t = raiseFault .stackOverflow s) ∨
    (s.stack.length < s.params.stackDepth ∧ t = advance (push v s)) := by
  unfold pushAndAdvance at h
  split at h <;> rename_i hf <;> injection h with h <;> subst h
  · exact .inl ⟨by simpa using hf, rfl⟩
  · exact .inr ⟨by simpa using hf, rfl⟩

/-- A branch answers `IllegalOperand` on an undefined mode; else it jumps to its target when its condition
holds and falls through when it does not (44_branches.md R162). -/
theorem branch_next (c : Bool) (a : Value) (b : Byte) (s t : State) (h : branch c a b s = .next t) :
    (branchMode b = none ∧ t = raiseFault .illegalOperand s) ∨
    (∃ m, branchMode b = some m ∧ c = true ∧ t = jumpTo (target m s.pc (s16 a)) s) ∨
    (∃ m, branchMode b = some m ∧ c = false ∧ t = advance s) := by
  unfold branch at h
  split at h
  · rename_i hm; injection h with h; exact .inl ⟨hm, h.symm⟩
  · rename_i m hm
    split at h <;> rename_i hc <;> injection h with h
    · exact .inr (.inl ⟨m, hm, hc, h.symm⟩)
    · exact .inr (.inr ⟨m, hm, by simpa using hc, h.symm⟩)

/-- The state a completed arithmetic instruction leaves (43_arithmetic.md R140, R141). -/
def arithState (r : Value) (below : List Value) (s : State) : State :=
  advance (updateFlags r { s with stack := r :: below })

/-- A binary operation answers `StackUnderflow` below two elements, else its result in their place
(43_arithmetic.md R140). -/
theorem binop_next (op : Value → Value → Value) (s t : State) (h : binop op s = .next t) :
    (s.stack.length < 2 ∧ t = raiseFault .stackUnderflow s) ∨
    (∃ n1 n2 below, s.stack = n1 :: n2 :: below ∧ t = arithState (op n2 n1) below s) := by
  unfold binop at h
  split at h
  · rename_i n1 n2 below hs; injection h with h; exact .inr ⟨n1, n2, below, hs, h.symm⟩
  · rename_i hs
    injection h with h
    refine .inl ⟨?_, h.symm⟩
    rcases hst : s.stack with _ | ⟨x, _ | ⟨y, ys⟩⟩ <;> simp
    exact hs x y ys hst

/-- `DIV` and `MOD` also answer `ArithmeticFault`, on a zero divisor (43_arithmetic.md R140). -/
theorem divBinop_next (op : Value → Value → Value) (s t : State) (h : divBinop op s = .next t) :
    (s.stack.length < 2 ∧ t = raiseFault .stackUnderflow s) ∨
    (∃ n1 n2 below, s.stack = n1 :: n2 :: below ∧ s16 n1 = 0 ∧ t = raiseFault .arithmeticFault s) ∨
    (∃ n1 n2 below, s.stack = n1 :: n2 :: below ∧ s16 n1 ≠ 0 ∧ t = arithState (op n2 n1) below s) := by
  unfold divBinop at h
  split at h
  · rename_i n1 n2 below hs
    split at h <;> rename_i hz <;> injection h with h
    · exact .inr (.inl ⟨n1, n2, below, hs, hz, h.symm⟩)
    · exact .inr (.inr ⟨n1, n2, below, hs, hz, h.symm⟩)
  · rename_i hs
    injection h with h
    refine .inl ⟨?_, h.symm⟩
    rcases hst : s.stack with _ | ⟨x, _ | ⟨y, ys⟩⟩ <;> simp
    exact hs x y ys hst

end Sys2Proof.Machine
end

