-- ==== Sys2Proof/Laws/Exec.lean ====
section
/-! SUPPORT. Everything an instruction can do to the state, said once (`Effect`), and the step in its three cases. -/

namespace Sys2Proof.Machine

/-- The next states of `i` in `s`, by what happens to the state. -/
inductive Effect (i : Instr) (s : State) : State → Prop where
  /-- A fault of the instruction's row of 60_exceptions.md R215 that consumes no response. -/
  | fault (k : FaultKind) (hk : k ∈ i.mayRaise) (hn : k ≠ .inputParseFailure) : Effect i s (raiseFault k s)
  /-- `STDIN` answered by `ParseFail` (45_io.md R182). -/
  | badInput (a : Value) (b : Byte) (rest : List InResponse) (hi : i = .stdin a b) (hin : s.input = .parseFail :: rest) :
      Effect i s (raiseFault .inputParseFailure { s with input := rest })
  /-- `HALT` (41_halt_illegal.md R120). -/
  | halted (a : Value) (b : Byte) (v : Value) (hi : i = .halt a b) : Effect i s (haltWith v s)
  /-- `STDIN` waiting (45_io.md R181). -/
  | waits (a : Value) (b : Byte) (hi : i = .stdin a b) (hin : s.input = []) (hroom : s.stack.length < s.params.stackDepth) :
      Effect i s s
  /-- A push. -/
  | pushed (v : Value) (hp : i.pushes = true) (hn : ∀ a b, i ≠ .stdin a b) (hroom : s.stack.length < s.params.stackDepth) :
      Effect i s (advance (push v s))
  /-- `STDIN` answered by a value. -/
  | received (a : Value) (b : Byte) (v : Value) (rest : List InResponse) (hi : i = .stdin a b)
      (hin : s.input = .value v :: rest) (hroom : s.stack.length < s.params.stackDepth) :
      Effect i s (advance (push v { s with input := rest }))
  /-- `POP`. -/
  | popped (a : Value) (b : Byte) (v : Value) (rest : List Value) (hi : i = .pop a b) (hs : s.stack = v :: rest) :
      Effect i s (advance { s with stack := rest })
  /-- An arithmetic or compare instruction. -/
  | computed (n1 n2 r : Value) (below : List Value) (hw : i.writesFlags = true) (hs : s.stack = n1 :: n2 :: below) :
      Effect i s (arithState r below s)
  /-- A conditional jump not taken. -/
  | fellThrough (hj : i.isJump = true) (hw : i.writesFlags = false) (hm : i.modeUndefined = false) : Effect i s (advance s)
  /-- A jump taken. -/
  | jumped (m : BranchMode) (a : Value) (hj : i.isJump = true) (hw : i.writesFlags = false)
      (hm : i.modeUndefined = false) :
      Effect i s (jumpTo (target m s.pc (s16 a)) s)
  /-- `STDOUT`. -/
  | emitted (a : Value) (b : Byte) (e : OutEvent) (hi : i = .stdout a b) : Effect i s (advance (emit e s))
  /-- `STORE`. -/
  | stored (a : Value) (b : Byte) (v : Value) (rest : List Value) (hi : i = .store a b) (hs : s.stack = v :: rest) :
      Effect i s (advance (varWrite a v { s with stack := rest }))
  /-- `CALL`. -/
  | called (a : Value) (b : Byte) (m : BranchMode) (hi : i = .call a b) (hroom : s.calls.length + 1 < s.params.frameDepth) :
      Effect i s (jumpTo (target m s.pc (s16 a)) { s with calls := { vars := [], ra := s.pc } :: s.calls })
  /-- `RETURN`. -/
  | returned (a : Value) (b : Byte) (f : Frame) (rest : List Frame) (hi : i = .ret a b) (hs : s.calls = f :: rest) :
      Effect i s (advance { s with calls := rest, pc := f.ra })

theorem effect_of_push (i : Instr) (v : Value) (s t : State) (hk : .stackOverflow ∈ i.mayRaise)
    (hp : i.pushes = true) (hn : ∀ a b, i ≠ .stdin a b) (h : pushAndAdvance v s = .next t) : Effect i s t := by
  rcases pushAndAdvance_next v s t h with ⟨-, rfl⟩ | ⟨hr, rfl⟩
  · exact .fault _ hk (by simp)
  · exact .pushed v hp hn hr

theorem effect_of_binop (i : Instr) (op : Value → Value → Value) (s t : State) (hk : .stackUnderflow ∈ i.mayRaise)
    (hw : i.writesFlags = true) (h : binop op s = .next t) : Effect i s t := by
  rcases binop_next op s t h with ⟨-, rfl⟩ | ⟨n1, n2, below, hs, rfl⟩
  · exact .fault _ hk (by simp)
  · exact .computed n1 n2 _ below hw hs

theorem effect_of_divBinop (i : Instr) (op : Value → Value → Value) (s t : State) (hk : .stackUnderflow ∈ i.mayRaise)
    (hk' : .arithmeticFault ∈ i.mayRaise) (hw : i.writesFlags = true) (h : divBinop op s = .next t) : Effect i s t := by
  rcases divBinop_next op s t h with ⟨-, rfl⟩ | ⟨n1, n2, below, -, -, rfl⟩ | ⟨n1, n2, below, hs, -, rfl⟩
  · exact .fault _ hk (by simp)
  · exact .fault _ hk' (by simp)
  · exact .computed n1 n2 _ below hw hs

theorem effect_of_branch (i : Instr) (c : Bool) (a : Value) (b : Byte) (s t : State) (hk : .illegalOperand ∈ i.mayRaise)
    (hj : i.isJump = true) (hw : i.writesFlags = false) (hm : i.modeUndefined = !branchModeLegal b) (h : branch c a b s = .next t) :
    Effect i s t := by
  have legal : ∀ m, branchMode b = some m → i.modeUndefined = false := by
    intro m hb
    have : ¬ branchModeLegal b = false := fun hl => by simp [(branchMode_eq_none b).mpr hl] at hb
    simpa [hm] using this
  rcases branch_next c a b s t h with ⟨-, rfl⟩ | ⟨m, hb, -, rfl⟩ | ⟨m, hb, -, rfl⟩
  · exact .fault _ hk (by simp)
  · exact .jumped m a hj hw (legal m hb)
  · exact .fellThrough hj hw (legal m hb)

theorem effect_of_stdin (a : Value) (b : Byte) (s t : State) (h : execStdin a b s = .next t) :
    Effect (.stdin a b) s t := by
  unfold execStdin at h
  split at h
  · injection h with h; subst h; exact .fault _ (by simp [Instr.mayRaise]) (by simp)
  · rename_i hf
    have hr : s.stack.length < s.params.stackDepth := by simpa using hf
    split at h <;> rename_i hin <;> injection h with h <;> subst h
    · exact .waits a b rfl hin hr
    · exact .badInput a b _ rfl hin
    · exact .received a b _ _ rfl hin hr

theorem effect_of_stdout (a : Value) (b : Byte) (s t : State) (h : execStdout a b s = .next t) :
    Effect (.stdout a b) s t := by
  unfold execStdout at h
  split at h
  · injection h with h; subst h; exact .fault _ (by simp [Instr.mayRaise]) (by simp)
  · split at h <;> injection h with h <;> subst h
    · exact .fault _ (by simp [Instr.mayRaise]) (by simp)
    · exact .emitted a b _ rfl

theorem effect_of_call (a : Value) (b : Byte) (s t : State) (h : execCall a b s = .next t) :
    Effect (.call a b) s t := by
  unfold execCall at h
  split at h
  · injection h with h; subst h; exact .fault _ (by simp [Instr.mayRaise]) (by simp)
  · rename_i m _
    split at h <;> rename_i hf <;> injection h with h <;> subst h
    · exact .fault _ (by simp [Instr.mayRaise]) (by simp)
    · exact .called a b m rfl (by simpa using hf)

/-- What an instruction does is one of the effects. -/
theorem exec_effect (i : Instr) (s t : State) (h : exec i s = .next t) : Effect i s t := by
  cases i with
  | halt a b => simp only [exec, execHalt] at h; injection h with h; subst h; exact .halted a b _ rfl
  | ilg a b => simp only [exec, execIlg] at h; injection h with h; subst h; exact .fault _ (by simp [Instr.mayRaise]) (by simp)
  | len a b => exact effect_of_push _ _ s t (by simp [Instr.mayRaise]) rfl (by simp) h
  | pop a b =>
    simp only [exec, execPop] at h
    split at h <;> rename_i hs <;> injection h with h <;> subst h
    · exact .fault _ (by simp [Instr.mayRaise]) (by simp)
    · exact .popped a b _ _ rfl hs
  | push a b => exact effect_of_push _ _ s t (by simp [Instr.mayRaise]) rfl (by simp) h
  | dup a b =>
    simp only [exec, execDup] at h
    split at h
    · injection h with h; subst h; exact .fault _ (by simp [Instr.mayRaise]) (by simp)
    · exact effect_of_push _ _ s t (by simp [Instr.mayRaise]) rfl (by simp) h
  | add a b => exact effect_of_binop _ _ s t (by simp [Instr.mayRaise]) rfl h
  | sub a b => exact effect_of_binop _ _ s t (by simp [Instr.mayRaise]) rfl h
  | mul a b => exact effect_of_binop _ _ s t (by simp [Instr.mayRaise]) rfl h
  | div a b => exact effect_of_divBinop _ _ s t (by simp [Instr.mayRaise]) (by simp [Instr.mayRaise]) rfl h
  | mod a b => exact effect_of_divBinop _ _ s t (by simp [Instr.mayRaise]) (by simp [Instr.mayRaise]) rfl h
  | cmp a b => exact effect_of_binop _ _ s t (by simp [Instr.mayRaise]) rfl h
  | jmp a b => exact effect_of_branch _ _ a b s t (by simp [Instr.mayRaise]) rfl rfl rfl h
  | je a b => exact effect_of_branch _ _ a b s t (by simp [Instr.mayRaise]) rfl rfl rfl h
  | jne a b => exact effect_of_branch _ _ a b s t (by simp [Instr.mayRaise]) rfl rfl rfl h
  | jg a b => exact effect_of_branch _ _ a b s t (by simp [Instr.mayRaise]) rfl rfl rfl h
  | jl a b => exact effect_of_branch _ _ a b s t (by simp [Instr.mayRaise]) rfl rfl rfl h
  | jge a b => exact effect_of_branch _ _ a b s t (by simp [Instr.mayRaise]) rfl rfl rfl h
  | jle a b => exact effect_of_branch _ _ a b s t (by simp [Instr.mayRaise]) rfl rfl rfl h
  | stdin a b => exact effect_of_stdin a b s t h
  | stdout a b => exact effect_of_stdout a b s t h
  | load a b =>
    simp only [exec, execLoad] at h
    split at h
    · injection h with h; subst h; exact .fault _ (by simp [Instr.mayRaise]) (by simp)
    · exact effect_of_push _ _ s t (by simp [Instr.mayRaise]) rfl (by simp) h
  | store a b =>
    simp only [exec, execStore] at h
    split at h <;> rename_i hs <;> injection h with h <;> subst h
    · exact .fault _ (by simp [Instr.mayRaise]) (by simp)
    · exact .stored a b _ _ rfl hs
  | call a b => exact effect_of_call a b s t h
  | ret a b =>
    simp only [exec, execReturn] at h
    split at h <;> rename_i hs <;> injection h with h <;> subst h
    · exact .fault _ (by simp [Instr.mayRaise]) (by simp)
    · exact .returned a b _ _ rfl hs

/-- A step is a request to a terminated core, a fetch outside the program, or an executed instruction
(40_execution_cycle.md R105). -/
theorem step_next (s t : State) (h : step s = .next t) :
    (∃ o, s.runState = .terminated o ∧ t = s) ∨
    (s.runState = .running ∧ s.fetchWord = none ∧ t = raiseFault .pcOutOfRange s) ∨
    (∃ w, s.runState = .running ∧ s.fetchWord = some w ∧ exec (decode w) s = .next t) := by
  unfold step at h
  split at h
  · rename_i o ho; injection h with h; exact .inl ⟨o, ho, h.symm⟩
  · rename_i hr
    split at h
    · rename_i hf; injection h with h; exact .inr (.inl ⟨hr, hf, h.symm⟩)
    · rename_i w hf; exact .inr (.inr ⟨w, hr, hf, h⟩)

/-- The target of a branch lies within 32768 of its address or of 0 (44_branches.md R160). -/
theorem target_range (m : BranchMode) (a : Int) (v : Value) :
    (-32768 ≤ target m a (s16 v) ∧ target m a (s16 v) ≤ 32767) ∨
    (a - 32768 ≤ target m a (s16 v) ∧ target m a (s16 v) ≤ a + 32768) := by
  have h1 : -32768 ≤ s16 v := by have := BitVec.le_toInt v; simpa [s16] using this
  have h2 : s16 v < 32768 := by have := BitVec.toInt_lt (x := v); simpa [s16] using this
  cases m <;> simp only [target] <;> omega

end Sys2Proof.Machine
end

