-- ==== Sys2Proof/Laws/PerInstr.lean ====
section
/-! SUPPORT. Per instruction: where the encoder puts its three fields (30_encoding.md R73). -/

namespace Sys2Proof.Laws.Encoding

/-- The fields of an instruction's word are its ordinal and its operands (30_encoding.md R71, R73). -/
def Statement (i : Instr) : Prop :=
  ordinalField (encode i) = i.ordinal ∧ operand1Field (encode i) = i.operand1 ∧
    operand2Field (encode i) = i.operand2

/-- The field lemmas of a packed word, for any instruction. -/
theorem ofPackWord (i : Instr) : Statement i :=
  ⟨ordinalField_packWord _ _ _, operand1Field_packWord _ _ _, operand2Field_packWord _ _ _⟩

theorem halt (a : Value) (b : Byte) : Statement (.halt a b) := ofPackWord _

theorem ilg (a : Value) (b : Byte) : Statement (.ilg a b) := ofPackWord _

theorem len (a : Value) (b : Byte) : Statement (.len a b) := ofPackWord _

theorem pop (a : Value) (b : Byte) : Statement (.pop a b) := ofPackWord _

theorem push (a : Value) (b : Byte) : Statement (.push a b) := ofPackWord _

theorem dup (a : Value) (b : Byte) : Statement (.dup a b) := ofPackWord _

theorem add (a : Value) (b : Byte) : Statement (.add a b) := ofPackWord _

theorem sub (a : Value) (b : Byte) : Statement (.sub a b) := ofPackWord _

theorem mul (a : Value) (b : Byte) : Statement (.mul a b) := ofPackWord _

theorem div (a : Value) (b : Byte) : Statement (.div a b) := ofPackWord _

theorem mod (a : Value) (b : Byte) : Statement (.mod a b) := ofPackWord _

theorem cmp (a : Value) (b : Byte) : Statement (.cmp a b) := ofPackWord _

theorem jmp (a : Value) (b : Byte) : Statement (.jmp a b) := ofPackWord _

theorem je (a : Value) (b : Byte) : Statement (.je a b) := ofPackWord _

theorem jne (a : Value) (b : Byte) : Statement (.jne a b) := ofPackWord _

theorem jg (a : Value) (b : Byte) : Statement (.jg a b) := ofPackWord _

theorem jl (a : Value) (b : Byte) : Statement (.jl a b) := ofPackWord _

theorem jge (a : Value) (b : Byte) : Statement (.jge a b) := ofPackWord _

theorem jle (a : Value) (b : Byte) : Statement (.jle a b) := ofPackWord _

theorem stdin (a : Value) (b : Byte) : Statement (.stdin a b) := ofPackWord _

theorem stdout (a : Value) (b : Byte) : Statement (.stdout a b) := ofPackWord _

theorem load (a : Value) (b : Byte) : Statement (.load a b) := ofPackWord _

theorem store (a : Value) (b : Byte) : Statement (.store a b) := ofPackWord _

theorem call (a : Value) (b : Byte) : Statement (.call a b) := ofPackWord _

theorem ret (a : Value) (b : Byte) : Statement (.ret a b) := ofPackWord _

end Sys2Proof.Laws.Encoding
end

