-- ==== Sys2Proof/Tests/Slice0.lean ====
section
/-! SUPPORT. The model's own tests: ill-formed terms, words written out bit by bit from 30_encoding.md R71 and R75, one step at a time from
95_test_vectors.md, and for every statement with hypotheses a state that meets them. -/

namespace Sys2Proof.Tests

open Sys2Proof.Machine

/-! ### WellFormed: a term that each check refuses, and the legal boundary beside it -/

theorem test_wf_ilg : (Instr.ilg 0 0).wellFormed = false := by decide
theorem test_wf_jump_mode : (Instr.je 9 2).wellFormed = true ∧ (Instr.je 9 3).wellFormed = false ∧
    (Instr.jmp 9 (-1)).wellFormed = false ∧ (Instr.jle 2 127).wellFormed = false := by decide
theorem test_wf_call_mode : (Instr.call 4 0).wellFormed = true ∧ (Instr.call 4 3).wellFormed = false ∧
    (Instr.call 4 (-128)).wellFormed = false := by decide
theorem test_wf_out_mode : (Instr.stdout 77 3).wellFormed = true ∧ (Instr.stdout 0 4).wellFormed = false ∧
    (Instr.stdout 0 (-1)).wellFormed = false := by decide

/-! ### Decoding: one word for each constructor, bit by bit (30_encoding.md R71, R75) -/

theorem test_decode_halt : decode 0b00000000_0000000000000101_00000101#32 = .halt 5 5 := by decide
theorem test_decode_ilg : decode 0b00000001_0000000000000000_00000000#32 = .ilg 0 0 := by decide
theorem test_decode_len : decode 0b00000010_0000000000000000_00000000#32 = .len 0 0 := by decide
theorem test_decode_pop : decode 0b00000011_0000000000000000_00000000#32 = .pop 0 0 := by decide
theorem test_decode_push : decode 0b00000100_0111111111111111_10000000#32 = .push 32767 (-128) := by decide
theorem test_decode_dup : decode 0b00000101_0000000000000000_00000000#32 = .dup 0 0 := by decide
theorem test_decode_add : decode 0b00000110_0000000000000000_00000000#32 = .add 0 0 := by decide
theorem test_decode_sub : decode 0b00000111_0000000000000000_00000000#32 = .sub 0 0 := by decide
theorem test_decode_mul : decode 0b00001000_0000000000000000_00000000#32 = .mul 0 0 := by decide
theorem test_decode_div : decode 0b00001001_0000000000000000_00000000#32 = .div 0 0 := by decide
theorem test_decode_mod : decode 0b00001010_0000000000000000_00000000#32 = .mod 0 0 := by decide
theorem test_decode_cmp : decode 0b00001011_0000000000000000_00000000#32 = .cmp 0 0 := by decide
theorem test_decode_jmp : decode 0b00001100_1111111111111100_00000010#32 = .jmp (-4) 2 := by decide
theorem test_decode_je : decode 0b00001101_0000000000000111_00000000#32 = .je 7 0 := by decide
theorem test_decode_jne : decode 0b00001110_0000000000000010_00000010#32 = .jne 2 2 := by decide
theorem test_decode_jg : decode 0b00001111_0000000000001101_00000000#32 = .jg 13 0 := by decide
theorem test_decode_jl : decode 0b00010000_0000000000000011_00000001#32 = .jl 3 1 := by decide
theorem test_decode_jge : decode 0b00010001_0000000000000100_00000000#32 = .jge 4 0 := by decide
theorem test_decode_jle : decode 0b00010010_0000000000000010_00000000#32 = .jle 2 0 := by decide
theorem test_decode_stdin : decode 0b00010011_0000000000000000_00000000#32 = .stdin 0 0 := by decide
theorem test_decode_stdout : decode 0b00010100_0000000000000000_11111111#32 = .stdout 0 (-1) := by decide
theorem test_decode_load : decode 0b00010101_0000000000000001_00000000#32 = .load 1 0 := by decide
theorem test_decode_store : decode 0b00010110_1111111111111111_00000000#32 = .store (-1) 0 := by decide
theorem test_decode_call : decode 0b00010111_0000000000000100_00000000#32 = .call 4 0 := by decide
theorem test_decode_return : decode 0b00011000_1000000000000000_10000000#32 = .ret (-32768) (-128) := by decide
theorem test_decode_first_unassigned : decode 0b00011001_0000000000000000_00000000#32 = .ilg 0 0 := by decide
theorem test_decode_last_ordinal : decode 0b11111111_1111111111111111_11111111#32 = .ilg (-1) (-1) := by decide

/-- S0 and 2.1 of 95_test_vectors.md. -/
theorem test_encode : encode (.call 4 0) = 0x17000400#32 ∧ encode (.jne 2 2) = 0x0E000202#32 ∧
    encode (.store (-1) 0) = 0x16FFFF00#32 ∧ encode (.ilg 4660 86) = 0x01123456#32 ∧
    encode (.push 32767 127) = 0x047FFF7F#32 := by decide

/-- 2.1 of 95_test_vectors.md. -/
theorem test_bytes : wordToBytes 0x0CFFFC02#32 = { b0 := 0x0C, b1 := 0xFF, b2 := 0xFC, b3 := 0x02 } ∧
    bytesToWord { b0 := 0x17, b1 := 0x00, b2 := 0x04, b3 := 0x00 } = 0x17000400#32 := by decide

theorem test_decodeBytes : decodeBytes [0x04, 0x00, 0x0A, 0x00, 0x07] = .ok (.push 10 0, [0x07]) ∧
    decodeBytes [0x04, 0x00, 0x0A] = .error .truncated := by decide

theorem test_decodeTableWord : decodeTableWord 32 0x0CFFFC02 = some (.jmp (-4) 2) ∧
    decodeTableWord 8 0x0CFFFC02 = some (.halt 0 2) ∧ decodeTableWord 40 0 = none := by decide

/-! ### Steps -/

/-- Just after reset, with an operand stack (the top first). -/
def start (stack : List Value) : State := { State.reset with stack := stack }

/-- `start` with `STACK_DEPTH = 2` and `FRAME_DEPTH = 2`. -/
def tiny (stack : List Value) : State := { start stack with params := { stackDepth := 2, frameDepth := 2 } }

/-- The state after the word `w`, placed at the state's `pc`, has been stepped. -/
def after (w : Word) (s : State) : State :=
  stepState { s with program := List.replicate s.pc.toNat 0 ++ [w] }

/-- The state after an instruction has been executed. -/
def afterExec (i : Instr) (s : State) : State :=
  match exec i s with
  | .next t => t
  | .fault _ => s
  | .refused _ => s

/-- A frame of a `CALL` at `ra`, over a root frame, with the given variables. -/
def inCall (ra : Int) (vars : Memory) (s : State) : State := { s with calls := [{ vars := vars, ra := ra }] }

theorem test_halt : (after 0x00000505 (start [-2, 3])).runState = .terminated (.success (-2)) ∧
    (after 0x00000505 (start [-2, 3])).pc = 0 ∧ (after 0x00000505 (start [-2, 3])).stack = [-2, 3] ∧
    (after 0x00000505 (start [-2, 3])).statusResult = 0xFFFE := by decide
theorem test_halt_empty : (after 0 (start [])).runState = .terminated (.success 0) ∧
    (after 0 (start [])).statusRunstate = 1 := by decide
theorem test_ilg : (after 0x19ABCD12 (start [4])).runState = .terminated (.fault .illegalOpcode 0 (some 0x19ABCD12)) ∧
    (after 0x19ABCD12 (start [4])).stack = [4] ∧ (after 0x19ABCD12 (start [4])).statusFaultInstr = 0x19ABCD12 := by decide
theorem test_len : (after 0x02000000 (start [9, 5])).stack = [2, 9, 5] := by decide
theorem test_len_full : (after 0x02000000 (tiny [2, 1])).runState =
    .terminated (.fault .stackOverflow 0 (some 0x02000000)) := by decide
theorem test_pop : (after 0x03000000 (start [9, 5])).stack = [5] := by decide
theorem test_pop_empty : (after 0x03000000 (start [])).runState =
    .terminated (.fault .stackUnderflow 0 (some 0x03000000)) ∧ (after 0x03000000 (start [])).statusFaultKind = 2 := by decide
theorem test_push : (after 0x0480007F (start [])).stack = [-32768] ∧ (after 0x04000000 (start [])).zero = false := by decide
theorem test_push_full : (after 0x04000100 (tiny [2, 1])).runState =
    .terminated (.fault .stackOverflow 0 (some 0x04000100)) := by decide
theorem test_dup : (after 0x05000000 (start [9, 5])).stack = [9, 9, 5] := by decide
theorem test_dup_faults : (after 0x05000000 (start [])).statusFaultKind = 2 ∧
    (after 0x05000000 (tiny [2, 1])).statusFaultKind = 10 := by decide
theorem test_add_wraps : (after 0x06000000 (start [1, 32767])).stack = [-32768] ∧
    (after 0x06000000 (start [1, 32767])).zero = false ∧ (after 0x06000000 (start [1, 32767])).sign = false := by decide
theorem test_add_stale_sign : (after 0x06000000 { start [5, -5] with sign := true }).zero = true ∧
    (after 0x06000000 { start [5, -5] with sign := true }).sign = true := by decide
theorem test_sub_order : (after 0x07000000 (start [3, 10, 9])).stack = [7, 9] ∧
    (after 0x07000000 (start [3, 10, 9])).sign = true := by decide
theorem test_sub_wraps : (after 0x07000000 (start [-32768, 0])).stack = [-32768] ∧
    (after 0x07000000 (start [1, -32768])).stack = [32767] := by decide
theorem test_mul_wraps : (after 0x08000000 (start [256, 256])).stack = [0] ∧
    (after 0x08000000 (start [256, 256])).zero = true ∧ (after 0x08000000 (start [182, 181])).stack = [-32594] := by decide
theorem test_div_truncates : (after 0x09000000 (start [2, -7])).stack = [-3] ∧
    (after 0x09000000 (start [-2, 7])).stack = [-3] ∧ (after 0x09000000 (start [-1, -32768])).stack = [-32768] := by decide
theorem test_div_faults : (after 0x09000000 (start [0, 5])).statusFaultKind = 6 ∧
    (after 0x09000000 (start [0, 5])).stack = [0, 5] ∧ (after 0x09000000 (start [0])).statusFaultKind = 2 := by decide
theorem test_mod_sign : (after 0x0A000000 (start [2, -7])).stack = [-1] ∧
    (after 0x0A000000 (start [-2, 7])).stack = [1] ∧ (after 0x0A000000 (start [-1, -32768])).stack = [0] := by decide
theorem test_mod_faults : (after 0x0A000000 (start [0, 5])).statusFaultKind = 6 ∧
    (after 0x0A000000 (start [])).statusFaultKind = 2 := by decide
theorem test_cmp : (after 0x0B000000 (start [5, 1])).stack = [-4] ∧ (after 0x0B000000 (start [5, 1])).zero = false ∧
    (after 0x0B000000 (start [5, 1])).sign = false ∧ (after 0x0B000000 (start [5, 5])).zero = true := by decide
theorem test_cmp_overflow_misorders : (after 0x0B000000 (start [1, -32768])).sign = true := by decide
theorem test_jmp_modes : (after 0x0C000900 { start [] with pc := 5 }).pc = 9 ∧
    (after 0x0C000401 { start [] with pc := 5 }).pc = 9 ∧ (after 0x0CFFFC02 { start [] with pc := 5 }).pc = 9 ∧
    (after 0x0C800002 { start [] with pc := 5 }).pc = 32773 ∧ (after 0x0C000001 { start [] with pc := 5 }).jumped = true := by
  decide
theorem test_jmp_bad_mode : (after 0x0C000903 { start [] with pc := 5 }).runState =
    .terminated (.fault .illegalOperand 5 (some 0x0C000903)) := by decide
theorem test_je : (after 0x0D000700 { start [] with pc := 3, zero := true }).pc = 7 ∧
    (after 0x0D000700 { start [] with pc := 3 }).pc = 4 ∧ (after 0x0D000700 { start [] with pc := 3 }).jumped = false := by
  decide
theorem test_je_bad_mode : (after 0x0D000903 { start [] with pc := 5 }).statusFaultKind = 9 := by decide
theorem test_jne : (after 0x0E000202 { start [] with pc := 3 }).pc = 1 ∧
    (after 0x0E001400 { start [] with pc := 6, zero := true }).pc = 7 := by decide
theorem test_jg : (after 0x0F000D00 { start [] with pc := 10, sign := true, zero := true }).pc = 13 ∧
    (after 0x0F001400 { start [] with pc := 6 }).pc = 7 := by decide
theorem test_jl : (after 0x10000301 { start [] with pc := 2 }).pc = 5 ∧
    (after 0x10001400 { start [] with pc := 6, sign := true }).pc = 7 := by decide
theorem test_jge : (after 0x11000400 { start [] with zero := true }).pc = 4 ∧
    (after 0x11001400 { start [] with pc := 6 }).pc = 7 := by decide
theorem test_jle : (after 0x12000200 { start [] with pc := 6, sign := true }).pc = 7 ∧
    (after 0x12000200 { start [] with pc := 6, zero := true, sign := true }).pc = 2 := by decide
theorem test_stdin : (after 0x13000000 { start [] with input := [.value 0, .value 5], sign := true }).stack = [0] ∧
    (after 0x13000000 { start [] with input := [.value 0, .value 5], sign := true }).zero = false ∧
    (after 0x13000000 { start [] with input := [.value 0, .value 5], sign := true }).input = [.value 5] := by decide
theorem test_stdin_faults :
    (after 0x13000000 { start [] with input := [.parseFail, .value 5] }).runState =
      .terminated (.fault .inputParseFailure 0 (some 0x13000000)) ∧
    (after 0x13000000 { start [] with input := [.parseFail, .value 5] }).input = [.value 5] ∧
    (after 0x13000000 { tiny [2, 1] with input := [.value 7] }).statusFaultKind = 10 ∧
    (after 0x13000000 { tiny [2, 1] with input := [.value 7] }).input = [.value 7] := by decide
theorem test_stdout : (after 0x14004D00 (start [-4])).output = [.dec (-4)] ∧
    (after 0x14000001 (start [321])).output = [.charNl 0x41] ∧ (after 0x14000002 (start [-1])).output = [.raw 0xFF] ∧
    (after 0x14000003 (start [-1])).output = [.char 0xFF] ∧ (after 0x14000003 (start [-1])).stack = [-1] := by decide
theorem test_stdout_faults : (after 0x14000004 (start [])).statusFaultKind = 9 ∧
    (after 0x140000FF (start [65])).statusFaultKind = 9 ∧ (after 0x14000000 (start [])).statusFaultKind = 2 ∧
    (after 0x14000004 (start [65])).output = [] := by decide
theorem test_load : (after 0x150001AA { start [] with rootVars := [(0, 5), (1, 10)] }).stack = [10] ∧
    (after 0x150001AA { start [] with rootVars := [(0, 5), (1, 10)] }).rootVars = [(0, 5), (1, 10)] := by decide
theorem test_load_unbound :
    (after 0x15000000 (inCall 2 [] { start [] with rootVars := [(0, 9)], pc := 4 })).runState =
      .terminated (.fault .unknownVariable 4 (some 0x15000000)) ∧
    (after 0x15000500 (tiny [2, 1])).statusFaultKind = 4 := by decide
theorem test_store : (after 0x16000000 { start [7] with rootVars := [(0, 5), (1, 10)] }).rootVars = [(0, 7), (1, 10)] ∧
    (after 0x16000000 { start [7] with rootVars := [(0, 5), (1, 10)] }).stack = [] := by decide
theorem test_store_in_call : (after 0x16FFFF00 (inCall 2 [(3, 1)] (start [7]))).calls =
      [{ vars := [(3, 1), (65535, 7)], ra := 2 }] ∧
    (after 0x16FFFF00 (inCall 2 [(3, 1)] (start [7]))).rootVars = [] := by decide
theorem test_call : (after 0x17000102 { start [5, 10] with pc := 2 }).calls = [{ vars := [], ra := 2 }] ∧
    (after 0x17000102 { start [5, 10] with pc := 2 }).pc = 1 ∧ (after 0x17000102 { start [5, 10] with pc := 2 }).jumped = true ∧
    (after 0x17000102 { start [5, 10] with pc := 2 }).stack = [5, 10] := by decide
theorem test_call_faults : (after 0x17000403 (inCall 0 [] (tiny []))).statusFaultKind = 9 ∧
    (after 0x17000400 (inCall 0 [] (tiny []))).statusFaultKind = 11 := by decide
theorem test_return : (after 0x18FFFFFF (inCall 2 [(0, 5)] { start [10] with pc := 14 })).pc = 3 ∧
    (after 0x18FFFFFF (inCall 2 [(0, 5)] { start [10] with pc := 14 })).calls = [] ∧
    (after 0x18FFFFFF (inCall 2 [(0, 5)] { start [10] with pc := 14 })).jumped = false := by decide
theorem test_return_root : (after 0x18000000 (start [])).runState =
    .terminated (.fault .callStackUnderflow 0 (some 0x18000000)) := by decide

/-- 2.9 of 95_test_vectors.md: `JMP 1 2` at address 0 leaves `pc = -1`, and the next fetch reports it. -/
theorem test_fetch_out_of_range :
    (stepState { start [] with program := [0x0C000102], pc := -1 }).statusFaultAddr = 0xFFFFFFFF ∧
    (stepState { start [] with program := [0x0C000102], pc := -1 }).statusFaultKind = 8 ∧
    (stepState { start [] with program := [0x0C000102], pc := -1 }).statusFaultInstrValid = 0 := by decide

/-- S10 of 95_test_vectors.md. -/
theorem test_loader : loadBinary [0x04, 0x00, 0x0A, 0x00, 0x00, 0x00] = .error .misalignedBinary ∧
    loadBinary [0x04, 0x00, 0x0A, 0x00, 0x00, 0x00, 0x00, 0x00] = .ok [0x04000A00, 0] ∧
    loadBinary [] = .ok [] := by decide

/-- 45_io.md R185, 95_test_vectors.md 2.6: events as bytes. -/
theorem test_bytes_of_events : OutEvent.bytes (.charNl 0xFF) = [0xC3, 0xBF, 0x0A] ∧
    OutEvent.bytes (.char 0xE9) = [0xC3, 0xA9] ∧ OutEvent.bytes (.raw 0xE9) = [0xE9] ∧
    OutEvent.bytes (.dec 321) = [0x33, 0x32, 0x31, 0x0A] := by decide

/-- 92_eei_decisions.md D20: an integer of 16 bits, else `ParseFail`. -/
theorem test_parse_line : parseLineDefault (some [0x20, 0x2D, 0x37, 0x0A]) = .value (-7) ∧
    parseLineDefault (some [0x33, 0x32, 0x37, 0x36, 0x38]) = .parseFail ∧
    parseLineDefault (some [0x2B, 0x31]) = .parseFail ∧ parseLineDefault (some []) = .parseFail ∧
    parseLineDefault none = .parseFail := by decide

/-- The first step after reset runs the word that `withFetchWord` places. -/
theorem test_withFetchWord : (stepState (State.reset.withFetchWord 32 0x04000A00)).stack = [10] ∧
    (State.reset.withFetchWord 32 0x04000A00).fetchWord = some 0x04000A00 := by decide

/-! ### Witnesses: the hypotheses of the statements are met, each clause at a boundary of its range -/

theorem witness_DecodeEncodeRoundTrip : (25 ≤ ((0x19000000#32 : Word).extractLsb' 24 8).toNat) ∧
    (25 ≤ ((0xFF123456#32 : Word).extractLsb' 24 8).toNat) ∧ ((0x18000000#32 : Word).extractLsb' 24 8).toNat ≤ 24 := by decide

theorem witness_EncodePacksFieldsInjectively : encode (.push (-1) 0) = encode (decode 0x04FFFF00#32) := by decide

/-- The states for the step: a running core inside and outside its program, and a terminated one. -/
theorem witness_StepRunsDecodedInstruction :
    ({ start [] with program := [0x07000000], pc := 0 } : State).runState = .running ∧
    ({ start [] with program := [0x07000000], pc := 0 } : State).program[(0 : Int).toNat]? = some 0x07000000 ∧
    ({ start [] with program := [0, 0x07000000], pc := 1 } : State).program[(1 : Int).toNat]? = some 0x07000000 := by decide

theorem witness_FetchOutsideProgramFaults :
    (start []).runState = .running ∧ (({ start [] with pc := -1 } : State).pc < 0) ∧
    (({ start [] with program := [0], pc := 1 } : State).program.length : Int) ≤ 1 ∧
    (0 : Int) < ({ start [] with program := [0], pc := 0 } : State).program.length := by decide

theorem witness_EmptyProgramFaultsAtZero : State.reset.program = [] := by decide

theorem witness_TerminatedIsAbsorbing : (afterExec (.halt 0 0) (start [])).runState = .terminated (.success 0) := by decide

theorem witness_IlgRaisesIllegalOpcode : 25 ≤ ((0x19ABCD12#32 : Word).extractLsb' 24 8).toNat := by decide

/-- A full stack, one element below it, and an empty one: the hypotheses of `LEN`, `POP`, `PUSH`, `DUP`. -/
theorem witness_LenPushesDepth : (tiny [2, 1]).stack.length = (tiny [2, 1]).params.stackDepth ∧
    (tiny [1]).stack.length < (tiny [1]).params.stackDepth ∧ (tiny [1]).params.stackDepth ≤ 32767 := by decide
theorem witness_PopDiscardsTop : (tiny []).stack = [] ∧ (tiny [1]).stack = 1 :: [] := by decide
theorem witness_PushPushesOperand : (tiny [2, 1]).stack.length = (tiny [2, 1]).params.stackDepth ∧
    (tiny [1]).stack.length < (tiny [1]).params.stackDepth := by decide
theorem witness_DupCopiesTop : (tiny []).stack = [] ∧ (tiny [2, 1]).stack = 2 :: [1] ∧
    (tiny [2, 1]).stack.length = (tiny [2, 1]).params.stackDepth ∧ (tiny [1]).stack = 1 :: [] ∧
    (tiny [1]).stack.length < (tiny [1]).params.stackDepth ∧ 1 ≤ (tiny [1]).params.stackDepth := by decide

theorem witness_FlagUpdateRule : s16 0 = 0 ∧ 1 ≤ s16 1 ∧ 1 ≤ s16 32767 ∧ s16 (-1) ≤ -1 ∧ s16 (-32768) ≤ -1 ∧
    (start [0, 5]).runState = .running ∧
    (afterExec (.div 0 0) (start [0, 5])).runState = .terminated (.fault .arithmeticFault 0 none) ∧
    (Instr.div 0 0).writesFlags = true ∧ (afterExec (.div 0 0) (start [5, 0])).runState = .running := by decide

/-- One element, and two at the ends of the range: the hypotheses of `ADD`, `SUB`, `MUL`, `CMP`. -/
theorem witness_AddResult : (start [4]).stack.length < 2 ∧ (start [1, 32767, 9]).stack = 1 :: 32767 :: [9] := by decide
theorem witness_SubResult : (start []).stack.length < 2 ∧ (start [-32768, 0]).stack = -32768 :: 0 :: [] := by decide
theorem witness_MulResult : (start [4]).stack.length < 2 ∧ (start [-1, -32768]).stack = -1 :: -32768 :: [] := by decide
theorem witness_DivResult : (start [0]).stack.length < 2 ∧ (start [0, 5]).stack = 0 :: 5 :: [] ∧ s16 0 = 0 ∧
    (start [-1, -32768]).stack = -1 :: -32768 :: [] ∧ s16 (-1) ≠ 0 := by decide
theorem witness_ModResult : (start []).stack.length < 2 ∧ (start [0, 5]).stack = 0 :: 5 :: [] ∧ s16 0 = 0 ∧
    (start [1, 7]).stack = 1 :: 7 :: [] ∧ s16 1 ≠ 0 := by decide

theorem witness_CmpEqualsSub : (start [4]).stack.length < 2 ∧ (start [1, -32767]).stack = 1 :: -32767 :: [] ∧
    -32768 ≤ s16 (-32767) - s16 1 ∧ s16 (-32767) - s16 1 ≤ 32767 ∧ s16 (-32767) < s16 1 ∧
    -32768 ≤ s16 32767 - s16 0 ∧ s16 32767 - s16 0 ≤ 32767 ∧ s16 0 < s16 32767 ∧ s16 5 = s16 5 := by decide

theorem witness_QuotientAndRemainderLaw : s16 1 ≠ 0 ∧ ¬ (s16 (-32768) = -32768 ∧ s16 1 = -1) ∧
    s16 (-1) ≠ 0 ∧ ¬ (s16 32767 = -32768 ∧ s16 (-1) = -1) ∧ s16 (-32768) = -32768 ∧ s16 (-1) = -1 := by decide

/-- The modes 0, 1, 2 and, outside them, 3, 127, -1 and -128. -/
theorem witness_JmpAlwaysJumps : s8 0 = 0 ∧ s8 1 = 1 ∧ s8 2 = 2 ∧
    (∀ b : Byte, b = 3 ∨ b = 127 ∨ b = -1 ∨ b = -128 → s8 b ≠ 0 ∧ s8 b ≠ 1 ∧ s8 b ≠ 2) := by
  refine ⟨by decide, by decide, by decide, ?_⟩
  rintro b (rfl | rfl | rfl | rfl) <;> decide

theorem witness_ConditionsAfterCompare : (start [1, -32767]).stack = 1 :: -32767 :: [] ∧
    -32768 ≤ s16 (-32767) - s16 1 ∧ s16 (-32767) - s16 1 ≤ 32767 ∧
    exec (.cmp 0 0) (start [1, -32767]) = .next (afterExec (.cmp 0 0) (start [1, -32767])) :=
  ⟨by decide, by decide, by decide, rfl⟩

theorem witness_StdinTakesResponse : (tiny [2, 1]).stack.length = (tiny [2, 1]).params.stackDepth ∧
    (tiny [1]).stack.length < (tiny [1]).params.stackDepth ∧ (tiny [1]).input = [] ∧
    ({ tiny [1] with input := [.parseFail] } : State).input = .parseFail :: [] ∧
    ({ tiny [1] with input := [.value 7] } : State).input = .value 7 :: [] := by decide

theorem witness_StdoutEmitsEvent : s8 (-1) < 0 ∧ s8 (-128) < 0 ∧ 3 < s8 4 ∧ 3 < s8 127 ∧ 0 ≤ s8 0 ∧ s8 3 ≤ 3 ∧
    (start []).stack = [] ∧ (start [65]).stack = 65 :: [] ∧ s8 0 = 0 ∧ s8 1 = 1 ∧ s8 2 = 2 ∧ s8 3 = 3 := by decide

theorem witness_OutputBytesAndFlushing : (0x7F#8).toNat ≤ 0x7F ∧ 0x80 ≤ (0x80#8).toNat ∧
    OutEvent.flushes (.raw 0) = true ∧ OutEvent.flushes (.dec 0) = false ∧
    (afterExec (.halt 0 0) (start [])).runState = .terminated (.success 0) ∧ (start [65]).runState = .running ∧
    s8 2 = 2 ∧ s8 3 = 3 ∧ (afterExec (.stdout 0 3) (start [65])).runState = .running ∧
    (afterExec (.stdout 0 2) (start [65])).runState = .running := by decide

theorem witness_LoadPushesVariable : Memory.read (tiny [2, 1]).curVars (5 : Value).toNat = none ∧
    Memory.read ({ tiny [2, 1] with rootVars := [(65535, 7)] } : State).curVars (-1 : Value).toNat = some 7 ∧
    (tiny [2, 1]).stack.length = (tiny [2, 1]).params.stackDepth ∧
    (tiny [1]).stack.length < (tiny [1]).params.stackDepth := by decide

theorem witness_StoreBindsVariable : (start []).stack = [] ∧ (start [7]).stack = 7 :: [] ∧ (start [7]).calls = [] ∧
    (inCall 2 [(3, 1)] (start [7])).calls = { vars := [(3, 1)], ra := 2 } :: [] := by decide

theorem witness_CallPushesFrame : (s8 3 ≠ 0 ∧ s8 3 ≠ 1 ∧ s8 3 ≠ 2) ∧ (s8 (-1) ≠ 0 ∧ s8 (-1) ≠ 1 ∧ s8 (-1) ≠ 2) ∧
    s8 0 = 0 ∧ s8 1 = 1 ∧ s8 2 = 2 ∧
    (inCall 0 [] (tiny [])).calls.length + 1 = (inCall 0 [] (tiny [])).params.frameDepth ∧
    (tiny []).calls.length + 1 < (tiny []).params.frameDepth := by decide

theorem witness_ReturnDropsFrame : (start []).calls = [] ∧
    (inCall 2 [] (start [])).calls = { vars := [], ra := 2 } :: [] := by decide

/-- The state `u` is the callee's after a `STORE` of its own. -/
theorem witness_ReturnResumesAfterCall :
    exec (.call 4 0) (start []) = .next (afterExec (.call 4 0) (start [])) ∧
    (afterExec (.call 4 0) (start [])).jumped = true ∧
    (afterExec (.call 4 0) (start [])).calls = { vars := [], ra := 0 } :: [] ∧
    (inCall 0 [(0, 9)] (start [1])).calls = { ({ vars := [], ra := 0 } : Frame) with vars := [(0, 9)] } :: [] ∧
    (inCall 0 [(0, 9)] (start [1])).rootVars = (afterExec (.call 4 0) (start [])).rootVars :=
  ⟨rfl, by decide, by decide, by decide, by decide⟩

theorem witness_OuterFramesNeverWritten :
    exec (.store 0 0) (inCall 2 [] (start [7])) = .next (afterExec (.store 0 0) (inCall 2 [] (start [7]))) ∧
    (inCall 2 [] (start [7])).calls ≠ [] := ⟨rfl, by decide⟩

/-- A current frame over one frame of an earlier `CALL` and the root frame. -/
def nested : State :=
  { start [7] with
    program := [0x16000000]
    rootVars := [(0, 1)]
    calls := [{ vars := [(0, 9)], ra := 0 }, { vars := [(0, 5)], ra := 0 }] }

/-- With one frame between, replaced together with the root frame, and then with two calls of which none is replaced. -/
theorem witness_OuterVariablesInvisible :
    nested.calls = { vars := [(0, 9)], ra := 0 } :: [{ vars := [(0, 5)], ra := 0 }] ∧
    ([[(3, 4)]] : List Memory).length = ([{ vars := [(0, 5)], ra := 0 }] : List Frame).length ∧
    AgreeAbove 1 nested (withOuterVars [] [[(3, 4)]] nested) ∧ 1 < nested.calls.length ∧
    AgreeAbove 0 nested { nested with rootVars := [] } ∧ 0 < nested.calls.length ∧
    withOuterVars [] [[(3, 4)]] nested ≠ nested ∧
    exec (.store 0 0) nested = .next (afterExec (.store 0 0) nested) ∧ (∀ a b, Instr.store 0 0 ≠ .ret a b) ∧
    exec (.store 0 0) (withOuterVars [] [[(3, 4)]] nested) =
      .next (afterExec (.store 0 0) (withOuterVars [] [[(3, 4)]] nested)) ∧
    step nested = .next (stepState nested) ∧
    step (withOuterVars [] [[(3, 4)]] nested) = .next (stepState (withOuterVars [] [[(3, 4)]] nested)) :=
  ⟨rfl, rfl, ⟨[{ vars := [(0, 9)], ra := 0 }], [{ vars := [(0, 5)], ra := 0 }], [{ vars := [(3, 4)], ra := 0 }],
      rfl, rfl, rfl, rfl, rfl⟩, by decide, ⟨nested.calls, [], [], rfl, rfl, rfl, rfl, rfl⟩, by decide, by decide, rfl,
    (fun _ _ h => nomatch h), rfl, rfl, rfl⟩

/-- Faulting steps: one that consumes no response, and `STDIN` answered by `ParseFail`. -/
theorem witness_FaultsArePrecise :
    ({ start [] with program := [0x03000000] } : State).runState = .running ∧
    step { start [] with program := [0x03000000] } = .next (after 0x03000000 (start [])) ∧
    (after 0x03000000 (start [])).runState = .terminated (.fault .stackUnderflow 0 (some 0x03000000)) ∧
    step { start [] with program := [0x13000000], input := [.parseFail, .value 5] } =
      .next (after 0x13000000 { start [] with input := [.parseFail, .value 5] }) ∧
    (after 0x13000000 { start [] with input := [.parseFail, .value 5] }).runState =
      .terminated (.fault .inputParseFailure 0 (some 0x13000000)) :=
  ⟨by decide, rfl, by decide, rfl, by decide⟩

theorem witness_FaultRecordFields :
    ({ start [] with program := [0x03000000] } : State).fetchWord = some 0x03000000 ∧ (start []).fetchWord = none ∧
    step (start []) = .next (stepState (start [])) ∧
    (stepState (start [])).runState = .terminated (.fault .pcOutOfRange 0 none) :=
  ⟨by decide, by decide, rfl, by decide⟩

/-- Coinciding causes (60_exceptions.md R214), one cause, and none. -/
theorem witness_EarliestCauseIsReported : (start []).runState = .running ∧ (start []).fetchWord = none ∧
    firstFault (.stdout 0 4) (start []) = some .illegalOperand ∧ firstFault (.load 5 0) (tiny [2, 1]) = some .unknownVariable ∧
    firstFault (.div 0 0) (start [0]) = some .stackUnderflow ∧ firstFault (.add 0 0) (start [1, 2]) = none ∧
    exec (.stdout 0 4) (start []) = .next (afterExec (.stdout 0 4) (start [])) :=
  ⟨by decide, by decide, by decide, by decide, by decide, by decide, rfl⟩

theorem witness_FaultsOfEachInstruction : (start []).runState = .running ∧
    exec (.pop 0 0) (start []) = .next (afterExec (.pop 0 0) (start [])) ∧
    (afterExec (.pop 0 0) (start [])).runState = .terminated (.fault .stackUnderflow 0 none) :=
  ⟨by decide, rfl, by decide⟩

theorem witness_LegalityDependsOnWordAlone : (start []).runState = .running ∧
    exec (.call 0 3) (start []) = .next (afterExec (.call 0 3) (start [])) ∧ (Instr.call 0 3).wellFormed = false :=
  ⟨by decide, rfl, by decide⟩

theorem witness_FlagWritersAndReaders :
    (Instr.call 0 0).writesFlags = false ∧ exec (.call 0 0) (start []) = .next (afterExec (.call 0 0) (start [])) ∧
    (Instr.jg 0 0).readsZero = false ∧ (Instr.je 0 0).readsSign = false ∧
    exec (.jg 0 0) { start [] with zero := true } = .next (afterExec (.jg 0 0) { start [] with zero := true }) ∧
    exec (.je 0 0) { start [] with sign := true } = .next (afterExec (.je 0 0) { start [] with sign := true }) :=
  ⟨rfl, rfl, rfl, rfl, rfl, rfl⟩

theorem witness_ChannelsMoveInOrder :
    exec (.stdout 0 2) (start [65]) = .next (afterExec (.stdout 0 2) (start [65])) ∧
    (afterExec (.stdout 0 2) (start [65])).output = [.raw 0x41] := ⟨rfl, by decide⟩

theorem witness_DeliveryTimeIsInvisible : (start []).waiting = false ∧
    step (start []) = .next (stepState (start [])) ∧
    ({ start [] with program := [0x13000000] } : State).waiting = true := ⟨by decide, rfl, by decide⟩

theorem witness_RunIgnoresLaterInput :
    (runSteps 1 (start [])).runState = .terminated (.fault .pcOutOfRange 0 none) := by decide

theorem witness_RunEndsOnceInThreeWays : EndsWith (start []) (.fault .pcOutOfRange 0 none) ∧
    (start []).runState = .running ∧ step (start []) = .next (stepState (start [])) ∧
    (after 0 (start [])).runState = .terminated (.success 0) := ⟨⟨1, by decide⟩, by decide, rfl, by decide⟩

/-- A state within the bounds, at their edge: a full stack, a full frame stack, the last return address. -/
theorem witness_StepKeepsBounds :
    State.WithinBounds { inCall 0 [] (tiny [2, 1]) with program := [0x18000000] } ∧
    step { inCall 0 [] (tiny [2, 1]) with program := [0x18000000] } =
      .next (stepState { inCall 0 [] (tiny [2, 1]) with program := [0x18000000] }) := by
  refine ⟨⟨by decide, by decide, by decide, by decide, ?_, by decide⟩, rfl⟩
  intro f hf
  obtain rfl : f = { vars := [], ra := 0 } := by simpa [inCall] using hf
  decide

theorem witness_ReachableStatesWithinBounds : State.reset.params.Allowed ∧ State.reset.progLen ≤ maxProgLen ∧
    (runSteps 0 (resetCore State.reset)).frames[0]?.map FrameView.raValid = some false := by decide

theorem witness_ResetMeetsInvariants : (tiny []).params.Allowed ∧ (tiny []).progLen ≤ maxProgLen := by decide

theorem witness_StepKeepsMemoryCanonical : State.MemoryCanonical { start [7] with rootVars := [(0, 5), (65535, 1)] } :=
  ⟨by decide, by intro f hf; cases hf⟩

theorem witness_StepKeepsRecordSound : State.RecordSound (stepState (start [])) ∧
    step (stepState (start [])) = .next (stepState (start [])) :=
  ⟨⟨by decide, by decide, by decide, by decide, by decide⟩, rfl⟩

theorem witness_FirstInstructionAfterReset :
    ({ start [] with program := [0x14000003] } : State).program = 0x14000003 :: [] ∧
    1 ≤ (decode 0x14000003#32).needs ∧ (decode 0x14000003#32).modeUndefined = false ∧
    decode 0x15000000#32 = .load 0 0 ∧ decode 0x18000000#32 = .ret 0 0 ∧ decode 0x0E000202#32 = .jne 2 2 ∧
    decode 0x11000400#32 = .jge 4 0 ∧ s8 0 = 0 ∧ s8 2 = 2 := by decide

theorem witness_LoaderReadsBigEndianWords : ([0x04, 0x00, 0x0A] : List Byte).length % 4 ≠ 0 ∧
    ([0x04, 0x00, 0x0A, 0x00] : List Byte).length % 4 = 0 ∧ ([] : List Byte).length % 4 = 0 ∧
    ([0x04, 0x00, 0x0A, 0x00] : List Byte)[4 * 0 + 2]? = some 0x0A ∧ (start []).runState = .running ∧
    (stepState (start [])).runState = .terminated (.fault .pcOutOfRange 0 none) := by decide

end Sys2Proof.Tests
end

/-! PROOFS. The statements of 00_scope.md: the integer readings (R11) and the inputs of a run (R15). -/

namespace Sys2Proof.Proofs

open Sys2Proof Sys2Proof.Machine

/-! ### The integer readings (00_scope.md R11) -/

theorem toInt_emod_two_pow {w : Nat} (v : BitVec w) : v.toInt % (2 ^ w : Nat) = v.toNat := by
  rw [BitVec.toInt_eq_toNat_bmod, Int.bmod_emod]
  exact Int.emod_eq_of_lt (Int.natCast_nonneg _) (Int.ofNat_lt.mpr v.isLt)

/-- The balanced remainder of an even modulus is the ordinary one of the number shifted by half of it. -/
theorem bmod_two_mul {m : Nat} (hm : 0 < m) (z : Int) : z.bmod (2 * m) = (z + m) % (2 * m : Nat) - m := by
  have hlow := Int.emod_nonneg (z + m) (b := (2 * m : Nat)) (by omega)
  have hhigh := Int.emod_lt_of_pos (z + m) (b := (2 * m : Nat)) (by omega)
  have hdvd := Int.dvd_emod_sub_self (x := z + m) (m := (2 * m : Nat))
  refine (Int.bmod_eq_iff (by omega)).mpr ⟨by omega, by omega, ?_⟩
  rwa [Int.sub_sub, Int.add_comm (m : Int) z]

theorem toInt_ofInt_succ (w : Nat) (z : Int) :
    (BitVec.ofInt (w + 1) z).toInt = (z + (2 ^ w : Nat)) % (2 * 2 ^ w : Nat) - (2 ^ w : Nat) := by
  rw [BitVec.toInt_ofInt, Nat.pow_succ', bmod_two_mul (Nat.two_pow_pos w)]

theorem le_s16 (v : Value) : -32768 ≤ s16 v := BitVec.le_toInt v

theorem s16_le (v : Value) : s16 v ≤ 32767 := Int.le_of_lt_add_one (BitVec.toInt_lt (x := v))

theorem s16_emod (v : Value) : s16 v % 65536 = (u16 v : Int) := toInt_emod_two_pow v

@[simp] theorem wrap16_s16 (v : Value) : wrap16 (s16 v) = v := BitVec.ofInt_toInt

theorem s16_wrap16 (z : Int) : s16 (wrap16 z) = (z + 32768) % 65536 - 32768 := toInt_ofInt_succ 15 z

theorem le_s8 (c : Byte) : -128 ≤ s8 c := BitVec.le_toInt c

theorem s8_le (c : Byte) : s8 c ≤ 127 := Int.le_of_lt_add_one (BitVec.toInt_lt (x := c))

theorem s8_emod (c : Byte) : s8 c % 256 = (u8 c : Int) := toInt_emod_two_pow c

@[simp] theorem wrap8_s8 (c : Byte) : wrap8 (s8 c) = c := BitVec.ofInt_toInt

theorem s8_wrap8 (z : Int) : s8 (wrap8 z) = (z + 128) % 256 - 128 := toInt_ofInt_succ 7 z

/-- Settles O6: the signed reading is the residue centred on 0, the unsigned one the residue itself, for both widths. -/
theorem integerReadings : Obligations.IntegerReadings :=
  ⟨fun v => ⟨le_s16 v, s16_le v, v.isLt, s16_emod v, wrap16_s16 v⟩, s16_wrap16,
    fun c => ⟨le_s8 c, s8_le c, c.isLt, s8_emod c, wrap8_s8 c⟩, s8_wrap8⟩

/-! ### The inputs of a run (00_scope.md R15, 10_state.md R32, 20_memory.md R63) -/

/-- `t` runs the program of `s` under its capacities: `t` has the inputs of the run that `s` is in. -/
def SameInputs (s t : State) : Prop := t.program = s.program ∧ t.params = s.params

theorem SameInputs.refl (s : State) : SameInputs s s := ⟨rfl, rfl⟩

theorem SameInputs.trans {s t u : State} (h : SameInputs s t) (h' : SameInputs t u) : SameInputs s u :=
  ⟨h'.1.trans h.1, h'.2.trans h.2⟩

theorem arithState_sameInputs (r : Value) (below : List Value) (s : State) :
    SameInputs s (arithState r below s) := by
  constructor <;> simp [arithState]

theorem varWrite_sameInputs (slot v : Value) (s : State) : SameInputs s (varWrite slot v s) := by
  constructor <;> simp [varWrite]

/-- Every effect but arithmetic and `STORE` is a record update that names neither field. -/
theorem effect_sameInputs {i : Instr} {s t : State} (h : Effect i s t) : SameInputs s t := by
  cases h with
  | computed n1 n2 r below => exact arithState_sameInputs r below s
  | stored a b v rest => exact varWrite_sameInputs a v { s with stack := rest }
  | _ => exact ⟨rfl, rfl⟩

theorem step_sameInputs {s t : State} (h : step s = .next t) : SameInputs s t := by
  obtain ⟨-, -, rfl⟩ | ⟨-, -, rfl⟩ | ⟨w, -, -, hx⟩ := step_next s t h
  · exact .refl t
  · exact ⟨rfl, rfl⟩
  · exact effect_sameInputs (exec_effect _ s t hx)

theorem stepState_sameInputs (s : State) : SameInputs s (stepState s) := by
  unfold stepState
  split
  · exact step_sameInputs ‹_›
  · exact .refl s
  · exact .refl s

/-- The induction over step requests: a reflexive and transitive relation that every step request keeps relates a state
to every later one (an invariant `P` is the relation `P s → P t`). -/
theorem runSteps_rel {R : State → State → Prop} (refl : ∀ s, R s s) (trans : ∀ {s t u}, R s t → R t u → R s u)
    (hstep : ∀ s, R s (stepState s)) : ∀ (n : Nat) (s : State), R s (runSteps n s)
  | 0, s => refl s
  | n + 1, s => trans (hstep s) (runSteps_rel refl trans hstep n (stepState s))

/-- Settles O48: every step keeps the inputs of the run, by the list of its effects. -/
theorem programNeverChanges : Obligations.ProgramNeverChanges :=
  fun s n => runSteps_rel SameInputs.refl SameInputs.trans stepState_sameInputs n s

end Sys2Proof.Proofs

/-! PROOFS. The statements of 10_state.md: the frames (R27 to R29), the flags (R26), the bounds (R35), reset (R30, R36). -/

namespace Sys2Proof.Proofs

open Sys2Proof Sys2Proof.Machine

/-! ### One run: the frames, the bounds, the canonical form, by the list of effects -/

theorem execReturn_of_nil (a : Value) (b : Byte) {s : State} (h : s.calls = []) :
    execReturn a b s = .next (raiseFault .callStackUnderflow s) := by
  simp only [execReturn, h]

theorem execReturn_of_cons (a : Value) (b : Byte) {s : State} {f : Frame} {rest : List Frame} (h : s.calls = f :: rest) :
    execReturn a b s = .next (advance { s with calls := rest, pc := f.ra }) := by
  simp only [execReturn, h]

/-- `VarWrite` changes the variables of the current frame alone (10_state.md R28). -/
theorem varWrite_cases (slot v : Value) (s : State) :
    (s.calls = [] ∧ varWrite slot v s = { s with rootVars := Memory.write s.rootVars (u16 slot) v }) ∨
    (∃ f outer, s.calls = f :: outer ∧
      varWrite slot v s = { s with calls := { f with vars := Memory.write f.vars (u16 slot) v } :: outer }) := by
  cases h : s.calls with
  | nil => exact .inl ⟨rfl, by simp [varWrite, setCurVars, State.curVars, h]⟩
  | cons f outer => exact .inr ⟨f, outer, rfl, by simp [varWrite, setCurVars, State.curVars, h]⟩

/-- Arithmetic as one record update: it names neither the frames nor the inputs of the run. -/
theorem arithState_eq (r : Value) (below : List Value) (s : State) :
    arithState r below s =
      { s with
        pc := s.pc + 1
        stack := r :: below
        zero := decide (s16 r = 0)
        sign := if s16 r = 0 then s.sign else decide (0 < s16 r)
        jumped := false } := by
  rw [arithState, updateFlags_eq]; rfl

/-- Settles O40: the four cases are every effect but `STORE`, `CALL` and `RETURN`, and these three. -/
theorem outerFramesNeverWritten : Obligations.OuterFramesNeverWritten := by
  intro i s t h
  cases exec_effect i s t h with
  | computed n1 n2 r below => rw [arithState_eq]; exact .inl ⟨rfl, fun _ => rfl⟩
  | stored a b v rest =>
    obtain ⟨hc, hw⟩ | ⟨f, outer, hc, hw⟩ := varWrite_cases a v { s with stack := rest } <;> rw [hw]
    · exact .inl ⟨rfl, fun hne => absurd hc hne⟩
    · exact .inr (.inl ⟨f, outer, _, hc, rfl, rfl⟩)
  | called a b m hi => exact .inr (.inr (.inl ⟨a, b, hi, rfl, rfl⟩))
  | returned a b f rest hi hs => exact .inr (.inr (.inr ⟨a, b, f, hi, hs, rfl⟩))
  | _ => exact .inl ⟨rfl, fun _ => rfl⟩

theorem effect_memoryCanonical {i : Instr} {s t : State} (hs : s.MemoryCanonical) (h : Effect i s t) :
    t.MemoryCanonical := by
  obtain ⟨hroot, hcalls⟩ := hs
  cases h with
  | computed n1 n2 r below => rw [arithState_eq]; exact ⟨hroot, hcalls⟩
  | stored a b v rest =>
    obtain ⟨-, hw⟩ | ⟨f, outer, hc, hw⟩ := varWrite_cases a v { s with stack := rest } <;> rw [hw]
    · exact ⟨Memory.wf_write _ _ v (u16_lt a) hroot, hcalls⟩
    · obtain ⟨hf, houter⟩ := List.forall_mem_cons.mp (hc ▸ hcalls)
      exact ⟨hroot, List.forall_mem_cons.mpr ⟨Memory.wf_write _ _ v (u16_lt a) hf, houter⟩⟩
  | called => exact ⟨hroot, List.forall_mem_cons.mpr ⟨by simp [Memory.wf], hcalls⟩⟩
  | returned a b f rest hi hs => exact ⟨hroot, fun g hg => hcalls g (hs ▸ List.mem_cons_of_mem f hg)⟩
  | _ => exact ⟨hroot, hcalls⟩

/-- Settles O56: a write keeps the form of the frame it writes, and a new frame is empty. -/
theorem stepKeepsMemoryCanonical : Obligations.StepKeepsMemoryCanonical := by
  intro s t hs h
  obtain ⟨-, -, rfl⟩ | ⟨-, -, rfl⟩ | ⟨w, -, -, hx⟩ := step_next s t h
  · exact hs
  · exact hs
  · exact effect_memoryCanonical hs (exec_effect _ s t hx)

/-- What the bounds say of a current frame above the root one and of the frames under it. -/
theorem withinBounds_frames {s : State} (hs : s.WithinBounds) {f : Frame} {rest : List Frame} (hc : s.calls = f :: rest) :
    rest.length + 1 < s.params.frameDepth ∧ (0 ≤ f.ra ∧ f.ra < s.progLen) ∧
      ∀ g ∈ rest, 0 ≤ g.ra ∧ g.ra < s.progLen := by
  have hfd := hs.fdepth_le
  have hra := hs.ra_range
  rw [State.fdepth, hc] at hfd
  rw [hc, List.forall_mem_cons] at hra
  exact ⟨hfd, hra⟩

/-- An instruction fetched inside the program moves `pc` by one from an address, or by a 16-bit operand from an address or
from 0, so it keeps the bounds. -/
theorem effect_withinBounds {i : Instr} {s t : State} (hs : s.WithinBounds) (hpc : 0 ≤ s.pc ∧ s.pc < s.progLen)
    (h : Effect i s t) : t.WithinBounds := by
  have hnext : -32768 ≤ s.pc + 1 ∧ s.pc + 1 ≤ s.progLen + 32767 := by omega
  have htarget (m : BranchMode) (a : Value) :
      -32768 ≤ target m s.pc (s16 a) ∧ target m s.pc (s16 a) ≤ s.progLen + 32767 := by
    have := target_range m s.pc a
    omega
  have hdepth : s.stack.length ≤ s.params.stackDepth := hs.depth_le
  cases h with
  | fault | badInput | halted => exact { hs with }
  | waits => exact hs
  | pushed v hp hn hroom => exact { hs with depth_le := hroom, pc_range := hnext }
  | received a b v rest hi hin hroom => exact { hs with depth_le := hroom, pc_range := hnext }
  | popped a b v rest hi hst =>
    rw [hst] at hdepth
    exact { hs with depth_le := Nat.le_of_succ_le hdepth, pc_range := hnext }
  | computed n1 n2 r below hw hst =>
    rw [hst] at hdepth
    rw [arithState_eq]
    exact { hs with depth_le := Nat.le_of_succ_le hdepth, pc_range := hnext }
  | fellThrough | emitted => exact { hs with pc_range := hnext }
  | jumped m a => exact { hs with pc_range := htarget m a }
  | stored a b v rest hi hst =>
    rw [hst] at hdepth
    have hrest : rest.length ≤ s.params.stackDepth := Nat.le_of_succ_le hdepth
    obtain ⟨-, hw⟩ | ⟨f, outer, hc, hw⟩ := varWrite_cases a v { s with stack := rest } <;> rw [hw]
    · exact { hs with depth_le := hrest, pc_range := hnext }
    · obtain ⟨hfd, hra⟩ := withinBounds_frames hs hc
      exact { hs with
        depth_le := hrest
        fdepth_le := hfd
        ra_range := List.forall_mem_cons.mpr hra
        pc_range := hnext }
  | called a b m hi hroom =>
    exact { hs with
      fdepth_le := hroom
      ra_range := List.forall_mem_cons.mpr ⟨hpc, hs.ra_range⟩
      pc_range := htarget m a }
  | returned a b f rest hi hc =>
    obtain ⟨hfd, hf, hrest⟩ := withinBounds_frames hs hc
    have hback : -32768 ≤ f.ra + 1 ∧ f.ra + 1 ≤ s.progLen + 32767 := by omega
    exact { hs with fdepth_le := hfd.le, ra_range := hrest, pc_range := hback }

/-- Settles O53: only a core whose `pc` is an address of the program executes an instruction. -/
theorem stepKeepsBounds : Obligations.StepKeepsBounds := by
  intro s t hs h
  obtain ⟨-, -, rfl⟩ | ⟨-, -, rfl⟩ | ⟨w, -, hf, hx⟩ := step_next s t h
  · exact hs
  · exact { hs with }
  · exact effect_withinBounds hs (pc_range_of_fetchWord s w hf) (exec_effect _ s t hx)

/-! ### Reset and the states reachable from it -/

theorem resetCore_withinBounds {s : State} (hp : s.params.Allowed) (hl : s.progLen ≤ maxProgLen) :
    (resetCore s).WithinBounds where
  params_allowed := hp
  progLen_le := hl
  depth_le := Nat.zero_le _
  fdepth_le := hp.2.2
  ra_range := List.forall_mem_nil _
  pc_range := by simp only [resetCore_pc]; omega

theorem resetCore_memoryCanonical (s : State) : (resetCore s).MemoryCanonical :=
  ⟨reset_rootVars_wf, List.forall_mem_nil _⟩

/-- Settles O54; `State.reset` is the reset of itself. -/
theorem resetMeetsInvariants : Obligations.ResetMeetsInvariants :=
  ⟨⟨resetCore_withinBounds (s := State.reset) (by decide) (by decide), resetCore_memoryCanonical State.reset, trivial⟩,
    fun s hp hl => ⟨resetCore_withinBounds hp hl, resetCore_memoryCanonical s, trivial⟩⟩

theorem stepState_withinBounds {s : State} (hs : s.WithinBounds) : (stepState s).WithinBounds := by
  unfold stepState
  split
  · exact stepKeepsBounds s _ hs ‹_›
  · exact hs
  · exact hs

theorem runSteps_withinBounds (n : Nat) {s : State} (hs : s.WithinBounds) : (runSteps n s).WithinBounds :=
  runSteps_rel (R := fun s t => s.WithinBounds → t.WithinBounds) (fun _ => id) (fun h h' => h' ∘ h)
    (fun _ => stepState_withinBounds) n s hs

theorem frames_length (s : State) : s.frames.length = s.fdepth := by simp [State.frames, State.fdepth]

/-- The frames above the root one in the spec's indexing are those of `calls`, with `ra_valid = 1` (10_state.md R29). -/
theorem exists_call_of_frames_getElem {s : State} {j : Nat} {f : FrameView} (hj : 1 ≤ j) (hf : s.frames[j]? = some f) :
    ∃ g ∈ s.calls, f = { vars := g.vars, raValid := true, ra := g.ra } := by
  obtain ⟨j, rfl⟩ := Nat.exists_eq_add_of_le' hj
  rw [State.frames, List.getElem?_cons_succ] at hf
  obtain ⟨g, hg, rfl⟩ := List.mem_map.mp (List.mem_of_getElem? hf)
  exact ⟨g, List.mem_reverse.mp hg, rfl⟩

/-- Settles O55: the bounds hold at reset and every step keeps them. -/
theorem reachableStatesWithinBounds : Obligations.ReachableStatesWithinBounds := by
  rintro s0 s n hp hl rfl
  have hb := runSteps_withinBounds n (resetCore_withinBounds hp hl)
  obtain ⟨hlo, hhi⟩ := hb.pc_range
  refine ⟨hb.depth_le, Nat.succ_pos _, hb.fdepth_le, frames_length _, rfl, fun j f hj hf => ?_, hlo, hhi⟩
  obtain ⟨g, hg, rfl⟩ := exists_call_of_frames_getElem hj hf
  exact ⟨rfl, hb.ra_range g hg⟩

theorem step_of_terminated {s : State} {o : RunOutcome} (h : s.runState = .terminated o) : step s = .next s := by
  simp only [step, h]

theorem runSteps_of_terminated {s : State} {o : RunOutcome} (h : s.runState = .terminated o) (n : Nat) :
    runSteps n s = s := by
  induction n with
  | zero => rfl
  | succ n ih => rw [runSteps, stepState, step_of_terminated h]; exact ih

/-- Settles O10. -/
theorem terminatedIsAbsorbing : Obligations.TerminatedIsAbsorbing :=
  ⟨⟨rfl, rfl⟩, fun _ _ h => ⟨step_of_terminated h, runSteps_of_terminated h⟩,
    fun s => ⟨resetCore_runState s, resetCore_pc s⟩⟩

/-- Settles O58: each field and each view of the reset state computes to its value. -/
theorem resetValues : Obligations.ResetValues := fun s =>
  ⟨resetCore_pc s, rfl, resetCore_zero s, resetCore_sign s, rfl, fun _ => rfl, rfl, resetCore_runState s, rfl, rfl, rfl,
    rfl, rfl, rfl, rfl, resetCore_output s, resetCore_program s⟩

/-! ### Two runs: states that differ in flags or frames only

The statements on the flags (R26) and on outer frames (R28) compare the same instruction in two states. What they share is
said once, for any relation with the properties of `TwoRun`. -/

/-- `s` with the flags and the frames of `h`, the parts in which two compared states may differ. -/
def withFlagsAndFrames (h s : State) : State :=
  { s with zero := h.zero, sign := h.sign, rootVars := h.rootVars, calls := h.calls }

@[simp] theorem withFlagsAndFrames_stack (h s : State) : (withFlagsAndFrames h s).stack = s.stack := rfl
@[simp] theorem withFlagsAndFrames_input (h s : State) : (withFlagsAndFrames h s).input = s.input := rfl
@[simp] theorem withFlagsAndFrames_stackFull (h s : State) : (withFlagsAndFrames h s).stackFull = s.stackFull := rfl

/-- An answer with its next state replaced. -/
def mapNext (g : State → State) : Result → Result
  | .next s => .next (g s)
  | .fault r => .fault r
  | .refused r => .refused r

/-- `F` neither reads nor writes flags or frames. -/
def Blind (F : State → Result) : Prop :=
  ∀ h s, F (withFlagsAndFrames h s) = mapNext (withFlagsAndFrames h) (F s)

theorem blind_raiseFault (k : FaultKind) : Blind fun s => .next (raiseFault k s) := fun _ _ => rfl

theorem blind_pushAndAdvance (v : Value) : Blind (pushAndAdvance v) := by
  intro h s
  unfold pushAndAdvance
  rw [withFlagsAndFrames_stackFull]
  split <;> rfl

theorem blind_branch (c : Bool) (a : Value) (b : Byte) : Blind (branch c a b) := by
  intro h s
  unfold branch
  cases branchMode b with
  | none => rfl
  | some m => cases c <;> rfl

theorem blind_execPop (a : Value) (b : Byte) : Blind (execPop a b) := by
  intro h s
  simp only [execPop, withFlagsAndFrames_stack]
  cases s.stack <;> rfl

theorem blind_execDup (a : Value) (b : Byte) : Blind (execDup a b) := by
  intro h s
  simp only [execDup, withFlagsAndFrames_stack]
  cases s.stack with
  | nil => rfl
  | cons v rest => exact blind_pushAndAdvance v h s

theorem blind_execStdout (a : Value) (b : Byte) : Blind (execStdout a b) := by
  intro h s
  simp only [execStdout, withFlagsAndFrames_stack]
  cases outMode b with
  | none => rfl
  | some m => cases s.stack <;> rfl

theorem blind_execStdin (a : Value) (b : Byte) : Blind (execStdin a b) := by
  intro h s
  unfold execStdin
  rw [withFlagsAndFrames_stackFull, withFlagsAndFrames_input]
  split
  · rfl
  · rcases s.input with _ | ⟨_ | _, rest⟩ <;> rfl

/-- The condition under which an instruction that may jump does so (44_branches.md R162); true for the other ones. -/
def jumpCond : Instr → State → Bool
  | .je _ _, s => s.condE
  | .jne _ _, s => s.condNE
  | .jg _ _, s => s.condG
  | .jl _ _, s => s.condL
  | .jge _ _, s => s.condGE
  | .jle _ _, s => s.condLE
  | _, _ => true

/-- A relation between two states that the operations of every instruction but `RETURN` keep, when it jumps in both or in
neither. -/
structure TwoRun (R : State → State → Prop) : Prop where
  /-- Related states differ in flags and frames only. -/
  hidden : ∀ {s u}, R s u → u = withFlagsAndFrames u s
  /-- The relation speaks of flags and frames only. -/
  visible : ∀ {s u}, R s u → ∀ t, R (withFlagsAndFrames s t) (withFlagsAndFrames u t)
  updateFlags : ∀ {s u}, R s u → ∀ r, R (updateFlags r s) (updateFlags r u)
  curVars : ∀ {s u}, R s u → u.curVars = s.curVars
  setCurVars : ∀ {s u}, R s u → ∀ m, R (setCurVars m s) (setCurVars m u)
  fdepth : ∀ {s u}, R s u → u.fdepth = s.fdepth
  pushFrame : ∀ {s u}, R s u → ∀ f, R { s with calls := f :: s.calls } { u with calls := f :: u.calls }

section TwoRun

variable {R : State → State → Prop} {s t u v : State}

theorem TwoRun.stack (hR : TwoRun R) (h : R s u) : u.stack = s.stack := (congrArg State.stack (hR.hidden h)).trans rfl

theorem TwoRun.pc (hR : TwoRun R) (h : R s u) : u.pc = s.pc := (congrArg State.pc (hR.hidden h)).trans rfl

theorem TwoRun.framesFull (hR : TwoRun R) (h : R s u) : u.framesFull = s.framesFull := by
  have hp : u.params = s.params := (congrArg State.params (hR.hidden h)).trans rfl
  rw [State.framesFull, State.framesFull, hR.fdepth h, hp]

/-- What neither reads nor writes the differing parts keeps the relation. -/
theorem TwoRun.blind (hR : TwoRun R) (h : R s u) {F : State → Result} (hF : Blind F) (ht : F s = .next t)
    (hv : F u = .next v) : R t v := by
  have hs : F s = mapNext (withFlagsAndFrames s) (F s) := hF s s
  have hu : F u = mapNext (withFlagsAndFrames u) (F s) := by rw [← hF u s, ← hR.hidden h]
  rw [ht] at hs
  rw [ht, hv] at hu
  injection hs with hs
  injection hu with hu
  have := hR.visible h t
  rwa [← hs, ← hu] at this

theorem TwoRun.update (hR : TwoRun R) (h : R s u) (g : State → State)
    (hg : ∀ h s, g (withFlagsAndFrames h s) = withFlagsAndFrames h (g s)) : R (g s) (g u) :=
  hR.blind h (F := fun s => .next (g s)) (fun h s => congrArg _ (hg h s)) rfl rfl

theorem TwoRun.withStack (hR : TwoRun R) (h : R s u) (st : List Value) : R { s with stack := st } { u with stack := st } :=
  hR.update h (fun s => { s with stack := st }) fun _ _ => rfl

theorem TwoRun.advance (hR : TwoRun R) (h : R s u) : R (advance s) (advance u) :=
  hR.update h Machine.advance fun _ _ => rfl

theorem TwoRun.finishBinop (hR : TwoRun R) (h : R s u) {r : Value} {below : List Value}
    (ht : finishBinop r below s = .next t) (hv : finishBinop r below u = .next v) : R t v := by
  obtain rfl := Host.Outcome.next.inj ht
  obtain rfl := Host.Outcome.next.inj hv
  exact hR.advance (hR.updateFlags (hR.withStack h _) r)

theorem TwoRun.binop (hR : TwoRun R) (h : R s u) {op : Value → Value → Value} (ht : binop op s = .next t)
    (hv : binop op u = .next v) : R t v := by
  rcases hs : s.stack with _ | ⟨n1, _ | ⟨n2, below⟩⟩ <;> simp only [Machine.binop, hR.stack h, hs] at ht hv
  · exact hR.blind h (blind_raiseFault _) ht hv
  · exact hR.blind h (blind_raiseFault _) ht hv
  · exact hR.finishBinop h ht hv

theorem TwoRun.divBinop (hR : TwoRun R) (h : R s u) {op : Value → Value → Value} (ht : divBinop op s = .next t)
    (hv : divBinop op u = .next v) : R t v := by
  rcases hs : s.stack with _ | ⟨n1, _ | ⟨n2, below⟩⟩ <;> simp only [Machine.divBinop, hR.stack h, hs] at ht hv
  · exact hR.blind h (blind_raiseFault _) ht hv
  · exact hR.blind h (blind_raiseFault _) ht hv
  · split at ht <;> rename_i hz
    · rw [if_pos hz] at hv; exact hR.blind h (blind_raiseFault _) ht hv
    · rw [if_neg hz] at hv; exact hR.finishBinop h ht hv

theorem TwoRun.execLoad (hR : TwoRun R) (h : R s u) (a : Value) (b : Byte) (ht : execLoad a b s = .next t)
    (hv : execLoad a b u = .next v) : R t v := by
  have hread : varRead a u = varRead a s := by rw [varRead, varRead, hR.curVars h]
  cases hs : varRead a s <;> simp only [Machine.execLoad, hread, hs] at ht hv
  · exact hR.blind h (blind_raiseFault _) ht hv
  · exact hR.blind h (blind_pushAndAdvance _) ht hv

theorem TwoRun.varWrite (hR : TwoRun R) (h : R s u) (slot x : Value) : R (varWrite slot x s) (varWrite slot x u) := by
  rw [Machine.varWrite, Machine.varWrite, hR.curVars h]
  exact hR.setCurVars h _

theorem TwoRun.execStore (hR : TwoRun R) (h : R s u) (a : Value) (b : Byte) (ht : execStore a b s = .next t)
    (hv : execStore a b u = .next v) : R t v := by
  rcases hs : s.stack with _ | ⟨x, rest⟩ <;> simp only [Machine.execStore, hR.stack h, hs] at ht hv
  · exact hR.blind h (blind_raiseFault _) ht hv
  · obtain rfl := Host.Outcome.next.inj ht
    obtain rfl := Host.Outcome.next.inj hv
    exact hR.advance (hR.varWrite (hR.withStack h rest) a x)

theorem TwoRun.execCall (hR : TwoRun R) (h : R s u) (a : Value) (b : Byte) (ht : execCall a b s = .next t)
    (hv : execCall a b u = .next v) : R t v := by
  rcases hm : branchMode b with _ | m <;> simp only [Machine.execCall, hm, hR.framesFull h, hR.pc h] at ht hv
  · exact hR.blind h (blind_raiseFault _) ht hv
  · split at ht <;> rename_i hf
    · rw [if_pos hf] at hv; exact hR.blind h (blind_raiseFault _) ht hv
    · rw [if_neg hf] at hv
      obtain rfl := Host.Outcome.next.inj ht
      obtain rfl := Host.Outcome.next.inj hv
      exact hR.update (hR.pushFrame h _) (jumpTo _) fun _ _ => rfl

/-- The same instruction keeps a `TwoRun` relation, when it jumps in both states or in neither. -/
theorem TwoRun.exec (hR : TwoRun R) (h : R s u) {i : Instr} (hret : ∀ a b, i ≠ .ret a b)
    (hc : jumpCond i u = jumpCond i s) (ht : exec i s = .next t) (hv : exec i u = .next v) : R t v := by
  have conditional {c : State → Bool} {a : Value} {b : Byte} (hc : c u = c s) (ht : branch (c s) a b s = .next t)
      (hv : branch (c u) a b u = .next v) : R t v :=
    hR.blind h (blind_branch (c s) a b) ht (hc ▸ hv)
  cases i with
  | halt a b => exact hR.blind h (F := execHalt a b) (fun _ _ => rfl) ht hv
  | ilg a b => exact hR.blind h (blind_raiseFault _) ht hv
  | len a b => exact hR.blind h (F := execLen a b) (fun h s => blind_pushAndAdvance (wrap16 s.depth) h s) ht hv
  | pop a b => exact hR.blind h (blind_execPop a b) ht hv
  | push a b => exact hR.blind h (blind_pushAndAdvance a) ht hv
  | dup a b => exact hR.blind h (blind_execDup a b) ht hv
  | add | sub | mul | cmp => exact hR.binop h ht hv
  | div | mod => exact hR.divBinop h ht hv
  | jmp a b => exact hR.blind h (blind_branch true a b) ht hv
  | je | jne | jg | jl | jge | jle => exact conditional hc ht hv
  | stdin a b => exact hR.blind h (blind_execStdin a b) ht hv
  | stdout a b => exact hR.blind h (blind_execStdout a b) ht hv
  | load a b => exact hR.execLoad h a b ht hv
  | store a b => exact hR.execStore h a b ht hv
  | call a b => exact hR.execCall h a b ht hv
  | ret a b => exact absurd rfl (hret a b)

end TwoRun

/-! ### The flags (10_state.md R26) -/

/-- `u` is `s` but for its flags; `zero` is the same if `keepZero`, and `sign` if `keepSign`. -/
def AgreeButFlags (keepZero keepSign : Prop) (s u : State) : Prop :=
  ∃ z g, u = { s with zero := z, sign := g } ∧ (keepZero → z = s.zero) ∧ (keepSign → g = s.sign)

theorem agreeButFlags_twoRun (keepZero keepSign : Prop) : TwoRun (AgreeButFlags keepZero keepSign) where
  hidden := by rintro s _ ⟨z, g, rfl, -⟩; rfl
  visible := by rintro s _ ⟨z, g, rfl, hz, hg⟩ t; exact ⟨z, g, rfl, hz, hg⟩
  updateFlags := by
    rintro s _ ⟨z, g, rfl, -, hg⟩ r
    simp only [updateFlags_eq]
    exact ⟨_, _, rfl, fun _ => rfl, fun hk => by rw [hg hk]⟩
  curVars := by rintro s _ ⟨z, g, rfl, -⟩; rfl
  setCurVars := by
    rintro s _ ⟨z, g, rfl, hz, hg⟩ m
    refine ⟨z, g, ?_, by simpa using hz, by simpa using hg⟩
    cases h : s.calls <;> simp [setCurVars, h]
  fdepth := by rintro s _ ⟨z, g, rfl, -⟩; rfl
  pushFrame := by rintro s _ ⟨z, g, rfl, hz, hg⟩ f; exact ⟨z, g, rfl, hz, hg⟩

theorem execReturn_agreeButFlags {keepZero keepSign : Prop} {s t u v : State}
    (h : AgreeButFlags keepZero keepSign s u) (a : Value) (b : Byte) (ht : execReturn a b s = .next t)
    (hv : execReturn a b u = .next v) : AgreeButFlags keepZero keepSign t v := by
  obtain ⟨z, g, rfl, hz, hg⟩ := h
  cases hs : s.calls with
  | nil =>
    obtain rfl := Host.Outcome.next.inj (ht.symm.trans (execReturn_of_nil a b hs))
    obtain rfl := Host.Outcome.next.inj (hv.symm.trans (execReturn_of_nil a b hs))
    exact ⟨z, g, rfl, hz, hg⟩
  | cons f rest =>
    obtain rfl := Host.Outcome.next.inj (ht.symm.trans (execReturn_of_cons a b hs))
    obtain rfl := Host.Outcome.next.inj (hv.symm.trans (execReturn_of_cons a b hs))
    exact ⟨z, g, rfl, hz, hg⟩

theorem exec_agreeButFlags {keepZero keepSign : Prop} {i : Instr} {s t u v : State}
    (h : AgreeButFlags keepZero keepSign s u) (hc : jumpCond i u = jumpCond i s) (ht : exec i s = .next t)
    (hv : exec i u = .next v) : AgreeButFlags keepZero keepSign t v := by
  by_cases hret : ∃ a b, i = .ret a b
  · obtain ⟨a, b, rfl⟩ := hret
    exact execReturn_agreeButFlags h a b ht hv
  · exact (agreeButFlags_twoRun keepZero keepSign).exec h (fun a b hi => hret ⟨a, b, hi⟩) hc ht hv

theorem jumpCond_of_not_readsZero {i : Instr} (h : i.readsZero = false) (s : State) (z : Bool) :
    jumpCond i { s with zero := z } = jumpCond i s := by
  cases i with
  | je | jne | jge | jle => cases h
  | _ => rfl

theorem jumpCond_of_not_readsSign {i : Instr} (h : i.readsSign = false) (s : State) (g : Bool) :
    jumpCond i { s with sign := g } = jumpCond i s := by
  cases i with
  | jg | jl | jge | jle => cases h
  | _ => rfl

theorem effect_flags {i : Instr} {s t : State} (hw : i.writesFlags = false) (h : Effect i s t) :
    t.zero = s.zero ∧ t.sign = s.sign := by
  cases h with
  | computed n1 n2 r below hw' => rw [hw] at hw'; cases hw'
  | stored => simp [varWrite]
  | _ => exact ⟨rfl, rfl⟩

/-- Settles O47: arithmetic is the only effect that names the flags, and a conditional jump the only reader. -/
theorem flagWritersAndReaders : Obligations.FlagWritersAndReaders := by
  refine ⟨fun i s t hw h => effect_flags hw (exec_effect i s t h), fun i s t u z hz ht hu => ?_,
    fun i s t u g hg ht hu => ?_⟩
  · have hs : AgreeButFlags False True s { s with zero := z } := ⟨z, s.sign, rfl, False.elim, fun _ => rfl⟩
    obtain ⟨z', g', rfl, -, hsign⟩ := exec_agreeButFlags hs (jumpCond_of_not_readsZero hz s z) ht hu
    rw [hsign trivial]
  · have hs : AgreeButFlags True False s { s with sign := g } := ⟨s.zero, g, rfl, fun _ => rfl, False.elim⟩
    obtain ⟨z', g', rfl, hzero, -⟩ := exec_agreeButFlags hs (jumpCond_of_not_readsSign hg s g) ht hu
    rw [hzero trivial]

/-! ### The frames under the current one (10_state.md R28) -/

/-- The variables of the root frame and of the `k` oldest frames of `CALL` differ, and a younger frame `f` is current:
`AgreeAbove k` with the current frame named. -/
def YoungerCurrent (k : Nat) (s u : State) : Prop :=
  ∃ (r : Memory) (f : Frame) (top low low' : List Frame), low.length = k ∧ low'.map Frame.ra = low.map Frame.ra ∧
    s.calls = f :: (top ++ low) ∧ u = { s with rootVars := r, calls := f :: (top ++ low') }

theorem youngerCurrent_of_agreeAbove {k : Nat} {s u : State} (h : AgreeAbove k s u) (hk : k < s.calls.length) :
    YoungerCurrent k s u := by
  obtain ⟨top, low, low', hs, hu, hlen, hra, he⟩ := h
  cases top with
  | nil => simp [hs, hlen] at hk
  | cons f top => exact ⟨u.rootVars, f, top, low, low', hlen, hra, hs, by rw [he, hu]; rfl⟩

theorem YoungerCurrent.agreeAbove {k : Nat} {s u : State} (h : YoungerCurrent k s u) : AgreeAbove k s u := by
  obtain ⟨r, f, top, low, low', hlen, hra, hs, rfl⟩ := h
  exact ⟨f :: top, low, low', hs, rfl, hlen, hra, rfl⟩

theorem length_eq_of_map_ra {l l' : List Frame} (h : l'.map Frame.ra = l.map Frame.ra) : l'.length = l.length := by
  simpa using congrArg List.length h

theorem youngerCurrent_twoRun (k : Nat) : TwoRun (YoungerCurrent k) where
  hidden := by rintro s _ ⟨r, f, top, low, low', -, -, -, rfl⟩; rfl
  visible := by
    rintro s _ ⟨r, f, top, low, low', hlen, hra, hs, rfl⟩ t
    exact ⟨r, f, top, low, low', hlen, hra, hs, rfl⟩
  updateFlags := by
    rintro s _ ⟨r, f, top, low, low', hlen, hra, hs, rfl⟩ x
    simp only [updateFlags_eq]
    exact ⟨r, f, top, low, low', hlen, hra, hs, rfl⟩
  curVars := by
    rintro s _ ⟨r, f, top, low, low', -, -, hs, rfl⟩
    simp only [State.curVars, hs]
  setCurVars := by
    rintro s _ ⟨r, f, top, low, low', hlen, hra, hs, rfl⟩ m
    simp only [setCurVars, hs]
    exact ⟨r, { f with vars := m }, top, low, low', hlen, hra, rfl, rfl⟩
  fdepth := by
    rintro s _ ⟨r, f, top, low, low', -, hra, hs, rfl⟩
    simp [State.fdepth, hs, length_eq_of_map_ra hra]
  pushFrame := by
    rintro s _ ⟨r, f, top, low, low', hlen, hra, hs, rfl⟩ g
    exact ⟨r, g, f :: top, low, low', hlen, hra, congrArg (g :: ·) hs, rfl⟩

theorem YoungerCurrent.jumpCond {k : Nat} {s u : State} (h : YoungerCurrent k s u) (i : Instr) :
    jumpCond i u = jumpCond i s := by
  obtain ⟨r, f, top, low, low', -, -, -, rfl⟩ := h
  cases i <;> rfl

theorem YoungerCurrent.exec {k : Nat} {i : Instr} {s t u v : State} (h : YoungerCurrent k s u)
    (hret : ∀ a b, i ≠ .ret a b) (ht : exec i s = .next t) (hv : exec i u = .next v) : YoungerCurrent k t v :=
  (youngerCurrent_twoRun k).exec h hret (h.jumpCond i) ht hv

/-- `RETURN` drops the current frame, which is none of the `k`. -/
theorem YoungerCurrent.execReturn {k : Nat} {s t u v : State} (h : YoungerCurrent k s u) (a : Value) (b : Byte)
    (ht : execReturn a b s = .next t) (hv : execReturn a b u = .next v) : AgreeAbove k t v := by
  obtain ⟨r, f, top, low, low', hlen, hra, hs, rfl⟩ := h
  obtain rfl := Host.Outcome.next.inj (ht.symm.trans (execReturn_of_cons a b hs))
  obtain rfl := Host.Outcome.next.inj (hv.symm.trans (execReturn_of_cons a b rfl))
  exact ⟨top, low, low', rfl, rfl, hlen, hra, rfl⟩

theorem YoungerCurrent.exec_agreeAbove {k : Nat} {i : Instr} {s t u v : State} (h : YoungerCurrent k s u)
    (ht : Machine.exec i s = .next t) (hv : Machine.exec i u = .next v) : AgreeAbove k t v := by
  by_cases hret : ∃ a b, i = .ret a b
  · obtain ⟨a, b, rfl⟩ := hret
    exact h.execReturn a b ht hv
  · exact (h.exec (fun a b hi => hret ⟨a, b, hi⟩) ht hv).agreeAbove

/-- Both states fetch the same word, or both fetch none, or both have terminated. -/
theorem YoungerCurrent.step {k : Nat} {s t u v : State} (h : YoungerCurrent k s u) (ht : step s = .next t)
    (hv : step u = .next v) : AgreeAbove k t v := by
  have hu := (youngerCurrent_twoRun k).hidden h
  have hrun : u.runState = s.runState := (congrArg State.runState hu).trans rfl
  have hfetch : u.fetchWord = s.fetchWord := (congrArg State.fetchWord hu).trans rfl
  unfold Machine.step at ht hv
  rw [hrun, hfetch] at hv
  cases hr : s.runState with
  | terminated o =>
    simp only [hr] at ht hv
    obtain rfl := Host.Outcome.next.inj ht
    obtain rfl := Host.Outcome.next.inj hv
    exact h.agreeAbove
  | running =>
    cases hf : s.fetchWord <;> simp only [hr, hf] at ht hv
    · exact ((youngerCurrent_twoRun k).blind h (blind_raiseFault _) ht hv).agreeAbove
    · exact h.exec_agreeAbove ht hv

theorem map_ra_zipWith_vars (outer : List Memory) (rest : List Frame) (h : outer.length = rest.length) :
    (List.zipWith (fun m (g : Frame) => { g with vars := m }) outer rest).map Frame.ra = rest.map Frame.ra := by
  apply List.ext_getElem <;> simp [h]

theorem agreeAbove_withOuterVars {s : State} {f : Frame} {rest : List Frame} (root : Memory) {outer : List Memory}
    (hs : s.calls = f :: rest) (h : outer.length = rest.length) :
    AgreeAbove rest.length s (withOuterVars root outer s) := by
  simp only [withOuterVars, hs]
  exact ⟨[f], rest, _, hs, rfl, rfl, map_ra_zipWith_vars outer rest h, rfl⟩

/-- Settles O41: every operation but `RETURN` reads and writes the current frame alone, and `RETURN` drops it. -/
theorem outerVariablesInvisible : Obligations.OuterVariablesInvisible := by
  refine ⟨fun s f rest root outer hs h => agreeAbove_withOuterVars root hs h, fun i k s t u v h hk ht hv => ?_,
    fun k s t u v h hk => (youngerCurrent_of_agreeAbove h hk).step⟩
  have hy := youngerCurrent_of_agreeAbove h hk
  exact ⟨hy.exec_agreeAbove ht hv, fun hret => (youngerCurrent_twoRun k).curVars (hy.exec hret ht hv)⟩

end Sys2Proof.Proofs

/-! PROOFS. The statements of 20_memory.md: words and their bytes (R53), the loader (R55), the two channels (R60). -/

namespace Sys2Proof.Proofs

open Sys2Proof Sys2Proof.Machine

/-! ### A word and its four bytes (20_memory.md R53) -/

theorem toNat_append_byte {w : Nat} (x : BitVec w) (c : Byte) : (x ++ c).toNat = x.toNat * 2 ^ 8 + c.toNat := by
  rw [BitVec.toNat_append, ← Nat.shiftLeft_add_eq_or_of_lt c.isLt, Nat.shiftLeft_eq]

theorem toNat_bytesToWord (q : WordBytes) :
    (bytesToWord q).toNat = q.b0.toNat * 2 ^ 24 + q.b1.toNat * 2 ^ 16 + q.b2.toNat * 2 ^ 8 + q.b3.toNat := by
  simp only [bytesToWord, toNat_append_byte]
  omega

/-- Each byte extracted continues the bits of the one before it. -/
theorem bytesToWord_wordToBytes (w : Word) : bytesToWord (wordToBytes w) = w := by
  simp only [bytesToWord, wordToBytes]
  rw [BitVec.extractLsb'_append_extractLsb'_eq_extractLsb' (show 24 = 16 + 8 from rfl),
    BitVec.extractLsb'_append_extractLsb'_eq_extractLsb' (show 16 = 8 + 8 from rfl),
    BitVec.extractLsb'_append_extractLsb'_eq_extractLsb' (show 8 = 0 + 8 from rfl)]
  exact BitVec.extractLsb'_eq_self

/-- Four bytes are the digits of their word in base 256. -/
theorem bytesToWord_injective : Function.Injective bytesToWord := by
  rintro ⟨a0, a1, a2, a3⟩ ⟨b0, b1, b2, b3⟩ h
  have hn := congrArg BitVec.toNat h
  simp only [toNat_bytesToWord] at hn
  simp only [WordBytes.mk.injEq]
  bv_omega

theorem wordToBytes_bytesToWord (q : WordBytes) : wordToBytes (bytesToWord q) = q :=
  bytesToWord_injective (bytesToWord_wordToBytes (bytesToWord q))

/-- Settles O4: the word is read in base 256, and a conversion with a right inverse that is injective has both inverses. -/
theorem wordBytesRoundTrip : Obligations.WordBytesRoundTrip :=
  ⟨fun _ => rfl, toNat_bytesToWord, bytesToWord_wordToBytes, wordToBytes_bytesToWord, by decide⟩

/-! ### The two channels (20_memory.md R60) -/

/-- Settles O49: of the effects, only the two of `STDIN` that take a response name the input, and only that of `STDOUT` the
output. -/
theorem channelsMoveInOrder : Obligations.ChannelsMoveInOrder := by
  intro i s t h
  cases exec_effect i s t h with
  | badInput a b rest hi hin => exact ⟨.inl rfl, .inr ⟨a, b, .parseFail, hi, hin⟩⟩
  | received a b v rest hi hin => exact ⟨.inl rfl, .inr ⟨a, b, .value v, hi, hin⟩⟩
  | emitted a b e hi => exact ⟨.inr ⟨a, b, e, hi, rfl⟩, .inl rfl⟩
  | computed n1 n2 r below => rw [arithState_eq]; exact ⟨.inl rfl, .inl rfl⟩
  | stored a b v rest => exact ⟨.inl (by simp [varWrite]), .inl (by simp [varWrite])⟩
  | _ => exact ⟨.inl rfl, .inl rfl⟩

/-! ### The loader (20_memory.md R55) -/

theorem misalignedBinary_notMem_mayRaise (i : Instr) : .misalignedBinary ∉ i.mayRaise := by
  cases i <;> simp [Instr.mayRaise]

/-- An instruction leaves the run state, or ends the run by success or by a fault of its row of 60_exceptions.md R215. -/
theorem effect_runState {i : Instr} {s t : State} (h : Effect i s t) :
    t.runState = s.runState ∨ (∃ v, t.runState = .terminated (.success v)) ∨
      ∃ k ∈ i.mayRaise, t.runState = .terminated (.fault k s.pc s.fetchWord) := by
  cases h with
  | fault k hk => exact .inr (.inr ⟨k, hk, rfl⟩)
  | badInput a b rest hi => exact .inr (.inr ⟨.inputParseFailure, by simp [hi, Instr.mayRaise], rfl⟩)
  | halted a b v => exact .inr (.inl ⟨v, rfl⟩)
  | computed n1 n2 r below => rw [arithState_eq]; exact .inl rfl
  | stored a b v rest => exact .inl (by simp [varWrite])
  | _ => exact .inl rfl

/-- The core never raises the loader's fault (20_memory.md R55). -/
theorem step_ne_misalignedBinary {s t : State} {a : Int} {w : Option Word} (hr : s.runState = .running)
    (h : step s = .next t) : t.runState ≠ .terminated (.fault .misalignedBinary a w) := by
  obtain ⟨o, ho, -⟩ | ⟨-, -, rfl⟩ | ⟨x, -, -, hx⟩ := step_next s t h
  · simp [hr] at ho
  · simp
  · obtain ht | ⟨v, ht⟩ | ⟨k, hk, ht⟩ := effect_runState (exec_effect _ s t hx)
    · simp [ht, hr]
    · simp [ht]
    · have hne : k ≠ .misalignedBinary := fun e => misalignedBinary_notMem_mayRaise _ (e ▸ hk)
      simp [ht, hne]

/-- `ws` are the big-endian words of `bytes`, in order and without a rest (20_memory.md R55). -/
def BigEndianWords (bytes : List Byte) (ws : List Word) : Prop :=
  4 * ws.length = bytes.length ∧
  ∀ (j : Nat) (b0 b1 b2 b3 : Byte),
    bytes[4 * j]? = some b0 → bytes[4 * j + 1]? = some b1 → bytes[4 * j + 2]? = some b2 → bytes[4 * j + 3]? = some b3 →
    ws[j]? = some (bytesToWord { b0 := b0, b1 := b1, b2 := b2, b3 := b3 })

theorem bigEndianWords_nil : BigEndianWords [] [] := ⟨rfl, by simp⟩

theorem bigEndianWords_cons (b0 b1 b2 b3 : Byte) {rest : List Byte} {ws : List Word} (h : BigEndianWords rest ws) :
    BigEndianWords (b0 :: b1 :: b2 :: b3 :: rest) (bytesToWord { b0 := b0, b1 := b1, b2 := b2, b3 := b3 } :: ws) := by
  obtain ⟨hlen, hget⟩ := h
  refine ⟨by simp only [List.length_cons]; omega, fun j => ?_⟩
  cases j with
  | zero => simp +contextual
  | succ j => exact hget j

/-- A file is a whole number of words, which the loader reads, or `MisalignedBinary`. -/
theorem loadBinary_cases : ∀ bytes : List Byte,
    (bytes.length % 4 ≠ 0 ∧ loadBinary bytes = .error .misalignedBinary) ∨
    (bytes.length % 4 = 0 ∧ ∃ ws, loadBinary bytes = .ok ws ∧ BigEndianWords bytes ws)
  | [] => .inr ⟨rfl, [], rfl, bigEndianWords_nil⟩
  | b0 :: b1 :: b2 :: b3 :: rest => by
    have hlen : (b0 :: b1 :: b2 :: b3 :: rest).length % 4 = rest.length % 4 := Nat.add_mod_right rest.length 4
    rw [hlen]
    obtain ⟨hr, herr⟩ | ⟨hr, ws, hok, hws⟩ := loadBinary_cases rest
    · exact .inl ⟨hr, by simp [loadBinary, herr]⟩
    · exact .inr ⟨hr, _, by simp only [loadBinary, hok], bigEndianWords_cons b0 b1 b2 b3 hws⟩
  | [_] | [_, _] | [_, _, _] => .inl ⟨by simp, rfl⟩

/-- Settles O60: the loader fails or reads all words by its own recursion, and no effect of an instruction is its fault. -/
theorem loaderReadsBigEndianWords : Obligations.LoaderReadsBigEndianWords := by
  refine ⟨fun s t a w hr h => step_ne_misalignedBinary hr h, fun bytes s => ?_⟩
  obtain ⟨hmod, herr⟩ | ⟨hmod, ws, hok, hlen, hget⟩ := loadBinary_cases bytes
  · exact ⟨fun _ => by simp only [loadFile, herr], fun h => absurd h hmod⟩
  · exact ⟨fun h => absurd hmod h, fun _ => ⟨loadProgram ws s, by simp only [loadFile, hok], rfl, hlen, hget⟩⟩

end Sys2Proof.Proofs

/-! PROOFS. The statements of 30_encoding.md: decoding (R74), encoding (R73), the round trip (R77), legality (R80, R81). -/

namespace Sys2Proof.Proofs

open Sys2Proof Sys2Proof.Machine

/-! ### The fields of a decoded word (30_encoding.md R74) -/

@[simp] theorem operand1_decode (w : Word) : (decode w).operand1 = operand1Field w := operand1_opcodeOf _ _ _

@[simp] theorem operand2_decode (w : Word) : (decode w).operand2 = operand2Field w := operand2_opcodeOf _ _ _

theorem ordinal_decode_of_le {w : Word} (h : (ordinalField w).toNat ≤ 24) : (decode w).ordinal = ordinalField w := by
  rw [decode, ordinal_opcodeOf _ _ _ h, BitVec.ofNat_toNat, BitVec.setWidth_eq]

theorem decode_of_unassigned {w : Word} (h : 25 ≤ (ordinalField w).toNat) :
    decode w = .ilg (operand1Field w) (operand2Field w) :=
  opcodeOf_unassigned _ _ _ h

/-- Settles O2: the two operand fields are those of the word, and the ordinal is the word's where the table has it. -/
theorem decodeReadsFields : Obligations.DecodeReadsFields := by
  intro w
  have ha := operand1_decode w
  have hb := operand2_decode w
  refine ⟨ha, hb, congrArg s16 ha, congrArg s8 hb, ?_⟩
  split
  case isTrue h => exact ordinal_decode_of_le h
  case isFalse h => rw [decode_of_unassigned (Nat.lt_of_not_le h), Instr.ordinal]

/-- Settles O5: the eight words are decoded by evaluation. -/
theorem specWordsDecode : Obligations.SpecWordsDecode := by
  unfold Obligations.SpecWordsDecode
  decide

/-! ### The round trip (30_encoding.md R77) -/

theorem decode_encode (i : Instr) : decode (encode i) = i := by
  obtain ⟨ho, ha, hb⟩ := Laws.Encoding.ofPackWord i
  rw [decode, ho, ha, hb, opcodeOf_ordinal]

theorem encode_injective : Function.Injective encode := Function.LeftInverse.injective decode_encode

/-- The operand bits survive; the ordinal is the one of the opcode selected. -/
theorem encode_decode (w : Word) :
    encode (decode w) = packWord (decode w).ordinal (operand1Field w) (operand2Field w) := by
  rw [encode, operand1_decode, operand2_decode]

theorem encode_decode_of_le {w : Word} (h : (ordinalField w).toNat ≤ 24) : encode (decode w) = w := by
  rw [encode_decode, ordinal_decode_of_le h, packWord_fields]

theorem packWord_operandFields (o : Byte) (w : Word) :
    packWord o (operand1Field w) (operand2Field w) = o ++ w.extractLsb' 0 24 := by
  rw [packWord, operand1Field, operand2Field, BitVec.append_assoc,
    BitVec.extractLsb'_append_extractLsb'_eq_extractLsb' (show 8 = 0 + 8 from rfl)]
  rfl

theorem encode_decode_of_unassigned {w : Word} (h : 25 ≤ (ordinalField w).toNat) :
    encode (decode w) = 1#8 ++ w.extractLsb' 0 24 := by
  rw [encode_decode, decode_of_unassigned h, Instr.ordinal]
  exact packWord_operandFields 1 w

/-- Ordinal 1 in place of an unassigned one makes another word. -/
theorem encode_decode_eq_iff (w : Word) : encode (decode w) = w ↔ (ordinalField w).toNat ≤ 24 := by
  refine ⟨fun h => ?_, encode_decode_of_le⟩
  by_contra hn
  have ho : ordinalField w = 1 := by
    rw [← h, encode_decode, ordinalField_packWord, decode_of_unassigned (Nat.lt_of_not_le hn), Instr.ordinal]
  exact hn (by rw [ho]; decide)

/-- Settles O1: the ordinal of an opcode selects it, and a word is its three fields, of which decoding changes only an
unassigned ordinal. -/
theorem decodeEncodeRoundTrip : Obligations.DecodeEncodeRoundTrip :=
  ⟨decode_encode, encode_decode_eq_iff, fun _ => encode_decode_of_unassigned, by decide, by decide, by decide⟩

/-! ### The word as a number (30_encoding.md R73) -/

theorem toNat_packWord (o : Byte) (a : Value) (b : Byte) :
    (packWord o a b).toNat = o.toNat * 2 ^ 24 + a.toNat * 2 ^ 8 + b.toNat := by
  have hoa : (o ++ a).toNat = o.toNat * 2 ^ 16 + a.toNat := by
    rw [BitVec.toNat_append, ← Nat.shiftLeft_add_eq_or_of_lt a.isLt, Nat.shiftLeft_eq]
  rw [packWord, toNat_append_byte, hoa]
  omega

/-- Settles O3: the three fields are the digits of the word, and decoding recovers the instruction. -/
theorem encodePacksFieldsInjectively : Obligations.EncodePacksFieldsInjectively :=
  ⟨fun i => toNat_packWord i.ordinal i.operand1 i.operand2, fun _ _ h => encode_injective h⟩

/-! ### Legality (30_encoding.md R80, R81) -/

/-- `t` records that the run ended at `s` with one of the two faults of an illegal instruction (30_encoding.md R80, R81). -/
def RaisedIllegal (s t : State) : Prop :=
  t.runState = .terminated (.fault .illegalOpcode s.pc s.fetchWord) ∨
  t.runState = .terminated (.fault .illegalOperand s.pc s.fetchWord)

@[simp] theorem raisedIllegal_raiseFault (k : FaultKind) (s : State) :
    RaisedIllegal s (raiseFault k s) ↔ k = .illegalOpcode ∨ k = .illegalOperand := by
  simp [RaisedIllegal]

theorem not_raisedIllegal_of_running {s t : State} (h : t.runState = .running) : ¬ RaisedIllegal s t := by
  simp [RaisedIllegal, h]

section

variable {s t : State} (hr : s.runState = .running)

include hr

theorem branch_raisedIllegal_iff {c : Bool} {a : Value} {b : Byte} (h : branch c a b s = .next t) :
    branchModeLegal b = false ↔ RaisedIllegal s t := by
  rw [← branchMode_eq_none]
  obtain ⟨hm, rfl⟩ | ⟨m, hm, -, rfl⟩ | ⟨m, hm, -, rfl⟩ := branch_next c a b s t h
  · simp [hm]
  · exact iff_of_false (by simp [hm]) (not_raisedIllegal_of_running hr)
  · exact iff_of_false (by simp [hm]) (not_raisedIllegal_of_running hr)

theorem execCall_raisedIllegal_iff (a : Value) {b : Byte} (h : execCall a b s = .next t) :
    branchModeLegal b = false ↔ RaisedIllegal s t := by
  rw [← branchMode_eq_none]
  unfold execCall at h
  split at h
  case h_1 hm => injection h with h; subst h; simp [hm]
  case h_2 m hm =>
    refine iff_of_false (by simp [hm]) ?_
    split at h <;> injection h with h <;> subst h <;> simp [RaisedIllegal, hr]

theorem execStdout_raisedIllegal_iff (a : Value) {b : Byte} (h : execStdout a b s = .next t) :
    outModeLegal b = false ↔ RaisedIllegal s t := by
  rw [← outMode_eq_none]
  unfold execStdout at h
  split at h
  case h_1 hm => injection h with h; subst h; simp [hm]
  case h_2 m hm =>
    refine iff_of_false (by simp [hm]) ?_
    split at h <;> injection h with h <;> subst h <;> simp [RaisedIllegal, hr]

/-- An instruction whose row of 60_exceptions.md R215 has neither fault raises neither. -/
theorem not_raisedIllegal_of_notMem_mayRaise {i : Instr} (h : exec i s = .next t) (hop : .illegalOpcode ∉ i.mayRaise)
    (hmode : .illegalOperand ∉ i.mayRaise) : ¬ RaisedIllegal s t := by
  obtain ht | ⟨v, ht⟩ | ⟨k, hk, ht⟩ := effect_runState (exec_effect i s t h)
  · exact not_raisedIllegal_of_running (ht.trans hr)
  · simp [RaisedIllegal, ht]
  · have hkop : k ≠ .illegalOpcode := fun e => hop (e ▸ hk)
    have hkmode : k ≠ .illegalOperand := fun e => hmode (e ▸ hk)
    simp [RaisedIllegal, ht, hkop, hkmode]

theorem exec_raisedIllegal_iff {i : Instr} (h : exec i s = .next t) : i.wellFormed = false ↔ RaisedIllegal s t := by
  cases i with
  | ilg a b =>
    obtain rfl : raiseFault .illegalOpcode s = t := by injection h
    simp [Instr.wellFormed]
  | jmp a b | je a b | jne a b | jg a b | jl a b | jge a b | jle a b => exact branch_raisedIllegal_iff hr h
  | call a b => exact execCall_raisedIllegal_iff hr a h
  | stdout a b => exact execStdout_raisedIllegal_iff hr a h
  | _ =>
    refine iff_of_false (by simp [Instr.wellFormed]) (not_raisedIllegal_of_notMem_mayRaise hr h ?_ ?_) <;>
      simp [Instr.mayRaise]

end

/-- Settles O46: the mode is tested before the state is looked at, and no other instruction has either fault in its row. -/
theorem legalityDependsOnWordAlone : Obligations.LegalityDependsOnWordAlone :=
  fun _ _ _ hr h => exec_raisedIllegal_iff hr h

end Sys2Proof.Proofs

/-! PROOFS. The statements of 40_execution_cycle.md: the fetch and the step (R100 to R105), how a run ends (R107), later
input (R109). -/

namespace Sys2Proof.Proofs

open Sys2Proof Sys2Proof.Machine

/-! ### The fetch and the step (40_execution_cycle.md R101 to R105) -/

theorem fetchWord_eq_none (s : State) : s.fetchWord = none ↔ s.pc < 0 ∨ (s.program.length : Int) ≤ s.pc :=
  progRead_eq_none s.program s.pc

theorem fetchWord_of_nonneg {s : State} (h : 0 ≤ s.pc) : s.fetchWord = s.program[s.pc.toNat]? :=
  progRead_of_nonneg s.program s.pc h

theorem step_of_fetch {s : State} {w : Word} (hr : s.runState = .running) (hf : s.fetchWord = some w) :
    step s = exec (decode w) s := by
  simp only [step, hr, hf]

theorem step_of_no_fetch {s : State} (hr : s.runState = .running) (hf : s.fetchWord = none) :
    step s = .next { s with runState := .terminated (.fault .pcOutOfRange s.pc none), jumped := false } := by
  simp only [step, hr, hf, raiseFault_eq]

/-- Settles O7: at an address of the program the fetch is the word there. -/
theorem stepRunsDecodedInstruction : Obligations.StepRunsDecodedInstruction :=
  fun _ _ hr hpc hw => step_of_fetch hr ((fetchWord_of_nonneg hpc).trans hw)

/-- Settles O8: the fetch has no word exactly outside the program. -/
theorem fetchOutsideProgramFaults : Obligations.FetchOutsideProgramFaults :=
  ⟨fun s hr hpc => ⟨_, step_of_no_fetch hr ((fetchWord_eq_none s).mpr hpc), rfl, rfl, rfl⟩,
    fun _ hpc _ => fetchWord_of_nonneg hpc⟩

/-- Settles O9: every address is outside an empty program. -/
theorem emptyProgramFaultsAtZero : Obligations.EmptyProgramFaultsAtZero := fun s hs =>
  have hf : (resetCore s).fetchWord = none := (fetchWord_eq_none _).mpr (.inr (by simp [hs]))
  ⟨_, step_of_no_fetch (resetCore_runState s) hf, rfl⟩

/-! ### How a run ends (40_execution_cycle.md R107) -/

theorem runSteps_add (n m : Nat) (s : State) : runSteps (n + m) s = runSteps m (runSteps n s) := by
  induction n generalizing s with
  | zero => rw [Nat.zero_add, runSteps]
  | succ n ih => rw [Nat.succ_add, runSteps, runSteps, ih]

/-- A run that has ended stays as it is. -/
theorem runSteps_of_ended {s : State} {o : RunOutcome} {n m : Nat} (h : (runSteps n s).runState = .terminated o)
    (hm : n ≤ m) : runSteps m s = runSteps n s := by
  rw [← Nat.add_sub_cancel' hm, runSteps_add, runSteps_of_terminated h]

theorem endsWith_unique {s : State} {o o' : RunOutcome} (h : EndsWith s o) (h' : EndsWith s o') : o = o' := by
  obtain ⟨n, hn⟩ := h
  obtain ⟨m, hm⟩ := h'
  have hsame : runSteps n s = runSteps m s :=
    (runSteps_of_ended hn (Nat.le_max_left n m)).symm.trans (runSteps_of_ended hm (Nat.le_max_right n m))
  rw [hsame, hm] at hn
  injection hn with ho
  exact ho.symm

/-- Only `HALT` ends a run by success (41_halt_illegal.md R120). -/
theorem effect_success {i : Instr} {s t : State} {v : Value} (hr : s.runState = .running) (h : Effect i s t)
    (ht : t.runState = .terminated (.success v)) : ∃ a b, i = .halt a b := by
  cases h with
  | halted a b x hi => exact ⟨a, b, hi⟩
  | fault | badInput => simp at ht
  | computed n1 n2 r below => simp [arithState_eq, hr] at ht
  | stored => simp [varWrite, hr] at ht
  | _ => simp [hr] at ht

/-- Settles O52: a terminated core stays as it is, so two runs to an outcome meet; and an instruction changes the run
state by `HALT` or by a fault of its row. -/
theorem runEndsOnceInThreeWays : Obligations.RunEndsOnceInThreeWays := by
  refine ⟨fun s o o' h h' => endsWith_unique h h', fun s t o hr h ht => ?_⟩
  obtain ⟨o', ho', -⟩ | ⟨-, hf, rfl⟩ | ⟨w, -, hf, hx⟩ := step_next s t h
  · simp [hr] at ho'
  · rw [raiseFault_runState, hf] at ht
    exact .inr (.inr ⟨hf, (RunState.terminated.inj ht).symm⟩)
  · have he := exec_effect _ s t hx
    obtain hsame | ⟨v, hv⟩ | ⟨k, hk, hfault⟩ := effect_runState he
    · simp [hsame, hr] at ht
    · obtain ⟨a, b, hi⟩ := effect_success hr he hv
      exact .inl ⟨a, b, w, v, hf, hi, RunState.terminated.inj (ht.symm.trans hv)⟩
    · exact .inr (.inl ⟨k, w, hf, hk, by rw [← hf]; exact RunState.terminated.inj (ht.symm.trans hfault)⟩)

/-! ### Next states and later input (40_execution_cycle.md R100, R109)

`STDIN` alone looks at the queue of responses, and at its front only. So every instruction that does not wait has a
next state, the same one but for `rs` when the responses `rs` are queued behind: both facts by one case analysis per
operation. -/

/-- `s` with the responses `rs` queued behind its own (20_memory.md R60); `deliver r` is the case of one response. -/
def queueBehind (rs : List InResponse) (s : State) : State := { s with input := s.input ++ rs }

/-- `F` has a next state in `s`, and that state with `rs` queued behind it when `rs` are queued behind in `s`. -/
def NextKeepsLater (rs : List InResponse) (F : State → Result) (s : State) : Prop :=
  ∃ t, F s = .next t ∧ F (queueBehind rs s) = .next (queueBehind rs t)

section

variable (rs : List InResponse) (s : State)

@[simp] theorem queueBehind_stack : (queueBehind rs s).stack = s.stack := rfl
@[simp] theorem queueBehind_calls : (queueBehind rs s).calls = s.calls := rfl
@[simp] theorem queueBehind_input : (queueBehind rs s).input = s.input ++ rs := rfl
@[simp] theorem queueBehind_stackFull : (queueBehind rs s).stackFull = s.stackFull := rfl
@[simp] theorem queueBehind_framesFull : (queueBehind rs s).framesFull = s.framesFull := rfl
@[simp] theorem varRead_queueBehind (slot : Value) : varRead slot (queueBehind rs s) = varRead slot s := rfl

theorem updateFlags_queueBehind (r : Value) : updateFlags r (queueBehind rs s) = queueBehind rs (updateFlags r s) := by
  rw [updateFlags_eq, updateFlags_eq]
  rfl

theorem varWrite_queueBehind (slot v : Value) :
    varWrite slot v (queueBehind rs s) = queueBehind rs (varWrite slot v s) := by
  cases hc : s.calls <;> simp only [varWrite, setCurVars, State.curVars, queueBehind, hc]

theorem pushAndAdvance_nextKeepsLater (v : Value) : NextKeepsLater rs (pushAndAdvance v) s := by
  unfold NextKeepsLater pushAndAdvance
  rw [queueBehind_stackFull]
  split <;> exact ⟨_, rfl, rfl⟩

theorem finishBinop_nextKeepsLater (r : Value) (below : List Value) : NextKeepsLater rs (finishBinop r below) s :=
  ⟨_, rfl, congrArg (Host.Outcome.next ∘ advance) (updateFlags_queueBehind rs { s with stack := r :: below } r)⟩

theorem binop_nextKeepsLater (op : Value → Value → Value) : NextKeepsLater rs (binop op) s := by
  unfold NextKeepsLater binop
  rw [queueBehind_stack]
  split
  · exact finishBinop_nextKeepsLater rs s _ _
  · exact ⟨_, rfl, rfl⟩

theorem divBinop_nextKeepsLater (op : Value → Value → Value) : NextKeepsLater rs (divBinop op) s := by
  unfold NextKeepsLater divBinop
  rw [queueBehind_stack]
  split
  · split
    · exact ⟨_, rfl, rfl⟩
    · exact finishBinop_nextKeepsLater rs s _ _
  · exact ⟨_, rfl, rfl⟩

theorem branch_nextKeepsLater (c : Bool) (a : Value) (b : Byte) : NextKeepsLater rs (branch c a b) s := by
  unfold NextKeepsLater branch
  split
  · exact ⟨_, rfl, rfl⟩
  · split <;> exact ⟨_, rfl, rfl⟩

variable (a : Value) (b : Byte)

theorem execPop_nextKeepsLater : NextKeepsLater rs (execPop a b) s := by
  unfold NextKeepsLater execPop
  rw [queueBehind_stack]
  split <;> exact ⟨_, rfl, rfl⟩

theorem execDup_nextKeepsLater : NextKeepsLater rs (execDup a b) s := by
  unfold NextKeepsLater execDup
  rw [queueBehind_stack]
  split
  · exact ⟨_, rfl, rfl⟩
  · exact pushAndAdvance_nextKeepsLater rs s _

theorem execStdout_nextKeepsLater : NextKeepsLater rs (execStdout a b) s := by
  unfold NextKeepsLater execStdout
  rw [queueBehind_stack]
  split
  · exact ⟨_, rfl, rfl⟩
  · split <;> exact ⟨_, rfl, rfl⟩

theorem execLoad_nextKeepsLater : NextKeepsLater rs (execLoad a b) s := by
  unfold NextKeepsLater execLoad
  rw [varRead_queueBehind]
  split
  · exact ⟨_, rfl, rfl⟩
  · exact pushAndAdvance_nextKeepsLater rs s _

theorem execStore_nextKeepsLater : NextKeepsLater rs (execStore a b) s := by
  unfold NextKeepsLater execStore
  rw [queueBehind_stack]
  split
  · exact ⟨_, rfl, rfl⟩
  next v rest _ =>
    exact ⟨_, rfl, congrArg (Host.Outcome.next ∘ advance) (varWrite_queueBehind rs { s with stack := rest } a v)⟩

theorem execCall_nextKeepsLater : NextKeepsLater rs (execCall a b) s := by
  unfold NextKeepsLater execCall
  rw [queueBehind_framesFull]
  split
  · exact ⟨_, rfl, rfl⟩
  · split <;> exact ⟨_, rfl, rfl⟩

theorem execReturn_nextKeepsLater : NextKeepsLater rs (execReturn a b) s := by
  unfold NextKeepsLater execReturn
  rw [queueBehind_calls]
  split <;> exact ⟨_, rfl, rfl⟩

end

/-- `i` in `s` is a `STDIN` with room for a value and no response (45_io.md R181). -/
def WaitsAt (i : Instr) (s : State) : Prop := (∃ a b, i = .stdin a b) ∧ s.stackFull = false ∧ s.input = []

/-- A `STDIN` that does not wait faults on a full stack, or takes the response at the front. -/
theorem execStdin_nextKeepsLater (rs : List InResponse) {s : State} (a : Value) (b : Byte)
    (hw : ¬ WaitsAt (.stdin a b) s) : NextKeepsLater rs (execStdin a b) s := by
  unfold NextKeepsLater execStdin
  rw [queueBehind_stackFull, queueBehind_input]
  split
  · exact ⟨_, rfl, rfl⟩
  case isFalse hroom =>
    cases hin : s.input with
    | nil => exact absurd ⟨⟨a, b, rfl⟩, Bool.eq_false_of_not_eq_true hroom, hin⟩ hw
    | cons r rest => cases r <;> exact ⟨_, rfl, rfl⟩

theorem exec_nextKeepsLater (rs : List InResponse) {i : Instr} {s : State} (hw : ¬ WaitsAt i s) :
    NextKeepsLater rs (exec i) s := by
  cases i with
  | halt | ilg => exact ⟨_, rfl, rfl⟩
  | len a b => exact pushAndAdvance_nextKeepsLater rs s (wrap16 s.depth)
  | pop a b => exact execPop_nextKeepsLater rs s a b
  | push a b => exact pushAndAdvance_nextKeepsLater rs s a
  | dup a b => exact execDup_nextKeepsLater rs s a b
  | add | sub | mul | cmp => exact binop_nextKeepsLater rs s _
  | div | mod => exact divBinop_nextKeepsLater rs s _
  | jmp a b | je a b | jne a b | jg a b | jl a b | jge a b | jle a b => exact branch_nextKeepsLater rs s _ a b
  | stdin a b => exact execStdin_nextKeepsLater rs a b hw
  | stdout a b => exact execStdout_nextKeepsLater rs s a b
  | load a b => exact execLoad_nextKeepsLater rs s a b
  | store a b => exact execStore_nextKeepsLater rs s a b
  | call a b => exact execCall_nextKeepsLater rs s a b
  | ret a b => exact execReturn_nextKeepsLater rs s a b

theorem exec_of_waitsAt {i : Instr} {s : State} (h : WaitsAt i s) : exec i s = .next s := by
  obtain ⟨⟨a, b, rfl⟩, hroom, hin⟩ := h
  simp [exec, execStdin, hroom, hin]

theorem exists_next_exec (i : Instr) (s : State) : ∃ t, exec i s = .next t := by
  by_cases hw : WaitsAt i s
  · exact ⟨s, exec_of_waitsAt hw⟩
  · obtain ⟨t, ht, -⟩ := exec_nextKeepsLater [] hw
    exact ⟨t, ht⟩

theorem exists_next_step (s : State) : ∃ t, step s = .next t := by
  cases hr : s.runState with
  | terminated o => exact ⟨s, step_of_terminated hr⟩
  | running =>
    cases hf : s.fetchWord with
    | none => exact ⟨_, step_of_no_fetch hr hf⟩
    | some w => exact step_of_fetch hr hf ▸ exists_next_exec (decode w) s

/-- Settles O11: an instruction that waits answers the unchanged state, and every branch of the others ends in a next
state. -/
theorem everyStepHasNextState : Obligations.EveryStepHasNextState := ⟨exists_next_step, exists_next_exec⟩

/-- The signal `in_req` is a running core with a waiting instruction at `pc` (45_io.md R181). -/
theorem waiting_iff (s : State) :
    s.waiting = true ↔ s.runState = .running ∧ ∃ w, s.fetchWord = some w ∧ WaitsAt (decode w) s := by
  unfold State.waiting WaitsAt
  split
  case h_1 w hr hf =>
    split
    case h_1 a b hd => simp [hr, hf, hd]
    case h_2 hne =>
      have hno : ¬ ∃ a b, decode w = .stdin a b := fun ⟨a, b, hd⟩ => hne a b hd
      simp [hf, hno]
  case h_2 hne =>
    refine iff_of_false Bool.false_ne_true ?_
    rintro ⟨hr, w, hf, -⟩
    exact hne w hr hf

theorem step_of_waiting {s : State} (h : s.waiting = true) : step s = .next s := by
  obtain ⟨hr, w, hf, hw⟩ := (waiting_iff s).mp h
  rw [step_of_fetch hr hf, exec_of_waitsAt hw]

theorem step_nextKeepsLater (rs : List InResponse) {s : State} (h : ¬ s.waiting = true) :
    NextKeepsLater rs step s := by
  cases hr : s.runState with
  | terminated o => exact ⟨s, step_of_terminated hr, step_of_terminated hr⟩
  | running =>
    cases hf : s.fetchWord with
    | none => exact ⟨_, step_of_no_fetch hr hf, step_of_no_fetch hr hf⟩
    | some w =>
      obtain ⟨t, ht, hq⟩ := exec_nextKeepsLater rs fun hw => h ((waiting_iff s).mpr ⟨hr, w, hf, hw⟩)
      exact ⟨t, (step_of_fetch hr hf).trans ht, (step_of_fetch (s := queueBehind rs s) hr hf).trans hq⟩

theorem stepState_of_next {s t : State} (h : step s = .next t) : stepState s = t := by
  simp only [stepState, h]

theorem stepState_queueBehind (rs : List InResponse) {s : State} (h : ¬ s.waiting = true) :
    stepState (queueBehind rs s) = queueBehind rs (stepState s) := by
  obtain ⟨t, ht, hq⟩ := step_nextKeepsLater rs h
  rw [stepState_of_next ht, stepState_of_next hq]

theorem runSteps_of_waiting {s : State} (h : s.waiting = true) (n : Nat) : runSteps n s = s := by
  induction n with
  | zero => rfl
  | succ n ih => rw [runSteps, stepState_of_next (step_of_waiting h), ih]

/-- A run that ends never waits: a core that waits does so for ever without a further response. -/
theorem runSteps_queueBehind (rs : List InResponse) {s : State} {o : RunOutcome} {n : Nat}
    (h : (runSteps n s).runState = .terminated o) : runSteps n (queueBehind rs s) = queueBehind rs (runSteps n s) := by
  induction n generalizing s with
  | zero => rfl
  | succ n ih =>
    have hw : ¬ s.waiting = true := by
      intro hw
      rw [runSteps_of_waiting hw, ((waiting_iff s).mp hw).1] at h
      cases h
    rw [runSteps, runSteps, stepState_queueBehind rs hw]
    exact ih h

/-- Settles O51: each step of a run that ends commutes with queueing the further responses. -/
theorem runIgnoresLaterInput : Obligations.RunIgnoresLaterInput := fun _ _ _ rs h => runSteps_queueBehind rs h

end Sys2Proof.Proofs

/-! PROOFS. The statements of 41_halt_illegal.md: `HALT` (R120) and `ILG` (R121). -/

namespace Sys2Proof.Proofs

open Sys2Proof Sys2Proof.Machine

theorem exec_halt (a : Value) (b : Byte) (s : State) :
    exec (.halt a b) s = .next (haltWith (s.stack.head?.getD 0) s) := rfl

theorem exec_ilg (a : Value) (b : Byte) (s : State) :
    exec (.ilg a b) s = .next (raiseFault .illegalOpcode s) := rfl

/-- Settles O12: the value is the top of a non-empty stack, and 0 of an empty one. -/
theorem haltYieldsTop : Obligations.HaltYieldsTop := by
  refine ⟨by decide, fun a b s => ?_⟩
  rw [exec_halt, haltWith]
  cases s.stack with
  | nil => rfl
  | cons v rest => rfl

/-- Settles O13: an unassigned ordinal decodes to `ILG` (30_encoding.md R76), and `ILG` takes the fault of R212. -/
theorem ilgRaisesIllegalOpcode : Obligations.IlgRaisesIllegalOpcode :=
  ⟨by decide, fun _ hw => ⟨_, _, decode_of_unassigned hw⟩, exec_ilg⟩

end Sys2Proof.Proofs

/-! PROOFS. The statements of 42_stack_ops.md: `LEN` (R130), `POP` (R131), `PUSH` (R132), `DUP` (R133). -/

namespace Sys2Proof.Proofs

open Sys2Proof Sys2Proof.Machine

/-! ### Pushing on a full stack and below it (10_state.md R24) -/

theorem pushAndAdvance_of_full (v : Value) {s : State} (h : s.params.stackDepth ≤ s.stack.length) :
    pushAndAdvance v s = .next (Faulted .stackOverflow s) :=
  if_pos ((stackFull_iff s).mpr h)

theorem pushAndAdvance_of_room (v : Value) {s : State} (h : s.stack.length < s.params.stackDepth) :
    pushAndAdvance v s = .next { s with stack := v :: s.stack, pc := s.pc + 1, jumped := false } :=
  if_neg (Bool.eq_false_iff.mp ((stackFull_false_iff s).mpr h))

theorem s16_wrap16_of_range {z : Int} (hlow : -32768 ≤ z) (hhigh : z ≤ 32767) : s16 (wrap16 z) = z := by
  rw [s16_wrap16]
  omega

/-! ### What each instruction does -/

section

variable (a : Value) (b : Byte) {s : State}

theorem exec_len : exec (.len a b) s = pushAndAdvance (wrap16 s.stack.length) s := rfl

theorem exec_push : exec (.push a b) s = pushAndAdvance a s := rfl

theorem exec_pop_of_nil (h : s.stack = []) : exec (.pop a b) s = .next (Faulted .stackUnderflow s) := by
  rw [exec, execPop, h]
  rfl

theorem exec_pop_of_cons {v : Value} {rest : List Value} (h : s.stack = v :: rest) :
    exec (.pop a b) s = .next { s with stack := rest, pc := s.pc + 1, jumped := false } := by
  rw [exec, execPop, h]
  rfl

theorem exec_dup_of_nil (h : s.stack = []) : exec (.dup a b) s = .next (Faulted .stackUnderflow s) := by
  rw [exec, execDup, h]
  rfl

theorem exec_dup_of_cons {v : Value} {rest : List Value} (h : s.stack = v :: rest) :
    exec (.dup a b) s = pushAndAdvance v s := by
  rw [exec, execDup, h]

end

/-! ### The statements -/

/-- Settles O14: `LEN` is a push of the depth, and a depth below a capacity of at most 32767 is in the signed range. -/
theorem lenPushesDepth : Obligations.LenPushesDepth := by
  refine ⟨by decide, fun a b s => ⟨fun hfull => ?_, fun hroom => ?_, fun hroom hcap => ?_⟩⟩
  · rw [exec_len, pushAndAdvance_of_full _ hfull.ge]
  · rw [exec_len, pushAndAdvance_of_room _ hroom]
  · exact s16_wrap16_of_range (by omega) (by omega)

/-- Settles O15: by whether the stack has a top. -/
theorem popDiscardsTop : Obligations.PopDiscardsTop :=
  ⟨by decide, fun a b _ => ⟨exec_pop_of_nil a b, fun _ _ => exec_pop_of_cons a b⟩⟩

/-- Settles O16: `PUSH` is a push of `operand1`, which reads neither `operand2` nor the flags. -/
theorem pushPushesOperand : Obligations.PushPushesOperand := by
  refine ⟨fun _ _ => rfl, fun a b s => ⟨fun hfull => ?_, fun hroom => ?_⟩⟩
  · rw [exec_push, pushAndAdvance_of_full a hfull.ge]
  · rw [exec_push, pushAndAdvance_of_room a hroom]

/-- Settles O17: on an empty stack `DUP` ends before the push, on any other it is a push of the top. -/
theorem dupCopiesTop : Obligations.DupCopiesTop := by
  refine ⟨by decide, fun a b s => ⟨exec_dup_of_nil a b, fun v rest hs => ⟨fun hfull => ?_, fun hroom => ?_⟩, ?_⟩⟩
  · rw [exec_dup_of_cons a b hs, pushAndAdvance_of_full v hfull.ge]
  · rw [exec_dup_of_cons a b hs, pushAndAdvance_of_room v hroom]
  · omega

end Sys2Proof.Proofs

/-! PROOFS. The statements of 43_arithmetic.md: the flag update (R141), `ADD` to `CMP` (R142 to R147) and the laws of
division (R148). -/

namespace Sys2Proof.Proofs

open Sys2Proof Sys2Proof.Machine

/-! ### The flag update (43_arithmetic.md R141) -/

theorem updateFlags_of_zero {r : Value} (h : s16 r = 0) (s : State) : updateFlags r s = { s with zero := true } :=
  if_pos h

theorem updateFlags_of_pos {r : Value} (h : 0 < s16 r) (s : State) :
    updateFlags r s = { s with zero := false, sign := true } := by
  rw [updateFlags, if_neg h.ne', decide_eq_true h]

theorem updateFlags_of_neg {r : Value} (h : s16 r < 0) (s : State) :
    updateFlags r s = { s with zero := false, sign := false } := by
  rw [updateFlags, if_neg h.ne, decide_eq_false h.not_gt]

/-! ### The common shape (43_arithmetic.md R140) -/

/-- The six instructions that write the flags are the binary operations. -/
theorem exec_of_writesFlags {i : Instr} (hw : i.writesFlags = true) :
    ∃ op, exec i = binop op ∨ exec i = divBinop op := by
  cases i with
  | add | sub | mul | cmp => exact ⟨_, .inl rfl⟩
  | div | mod => exact ⟨_, .inr rfl⟩
  | _ => cases hw

theorem exec_eq_arithState_of_running {i : Instr} {s t : State} (hw : i.writesFlags = true) (h : exec i s = .next t)
    (ht : t.runState = .running) : ∃ r below, t = arithState r below s := by
  obtain ⟨op, hx | hx⟩ := exec_of_writesFlags hw <;> rw [hx] at h
  · obtain ⟨-, rfl⟩ | ⟨n1, n2, below, -, he⟩ := binop_next op s t h
    · cases ht
    · exact ⟨_, below, he⟩
  · obtain ⟨-, rfl⟩ | ⟨-, -, -, -, -, rfl⟩ | ⟨n1, n2, below, -, -, he⟩ := divBinop_next op s t h
    · cases ht
    · cases ht
    · exact ⟨_, below, he⟩

/-- Settles O18: an arithmetic instruction completes in `arithState`; no other one writes a flag, and an arithmetic one
that faults does not complete. -/
theorem flagUpdateRule : Obligations.FlagUpdateRule := by
  refine ⟨fun r s h => updateFlags_of_zero h s, fun r s h => updateFlags_of_pos h s,
    fun r s h => updateFlags_of_neg (Int.lt_of_le_sub_one h) s, fun i s t hw _ h ht => ?_, fun i s t k a w h hr ht => ?_⟩
  · obtain ⟨r, below, rfl⟩ := exec_eq_arithState_of_running hw h ht
    exact ⟨r, below, by simp [arithState]⟩
  · cases exec_effect i s t h with
    | computed n1 n2 r below => simp [arithState, hr] at ht
    | stored => simp [varWrite]
    | _ => exact ⟨rfl, rfl⟩

/-! ### What a binary operation does -/

section

variable (op : Value → Value → Value) {s : State} {n1 n2 : Value} {below : List Value}

theorem binop_of_short (h : s.stack.length < 2) : binop op s = .next (Faulted .stackUnderflow s) := by
  unfold binop
  split
  · next hs => simp [hs] at h
  · rfl

theorem divBinop_of_short (h : s.stack.length < 2) : divBinop op s = .next (Faulted .stackUnderflow s) := by
  unfold divBinop
  split
  · next hs => simp [hs] at h
  · rfl

theorem finishBinop_eq (r : Value) : finishBinop r below s = .next
    { s with
      stack := r :: below
      zero := decide (s16 r = 0)
      sign := if s16 r = 0 then s.sign else decide (0 < s16 r)
      pc := s.pc + 1
      jumped := false } :=
  congrArg Host.Outcome.next (arithState_eq r below s)

theorem binop_of_two (h : s.stack = n1 :: n2 :: below) : binop op s = finishBinop (op n2 n1) below s := by
  rw [binop, h]

theorem divBinop_of_zero (h : s.stack = n1 :: n2 :: below) (hz : s16 n1 = 0) :
    divBinop op s = .next (Faulted .arithmeticFault s) := by
  rw [divBinop, h]
  exact if_pos hz

theorem divBinop_of_ne_zero (h : s.stack = n1 :: n2 :: below) (hz : s16 n1 ≠ 0) :
    divBinop op s = finishBinop (op n2 n1) below s := by
  rw [divBinop, h]
  exact if_neg hz

end

/-! ### The results (43_arithmetic.md R142 to R145): each instruction is a binary operation by definition -/

/-- Settles O19. -/
theorem addResult : Obligations.AddResult :=
  ⟨by decide, fun _ _ _ => ⟨binop_of_short opAdd, fun _ _ _ h => (binop_of_two opAdd h).trans (finishBinop_eq _)⟩⟩

/-- Settles O20. -/
theorem subResult : Obligations.SubResult :=
  ⟨by decide, fun _ _ _ => ⟨binop_of_short opSub, fun _ _ _ h => (binop_of_two opSub h).trans (finishBinop_eq _)⟩⟩

/-- Settles O21. -/
theorem mulResult : Obligations.MulResult :=
  ⟨by decide, fun _ _ _ => ⟨binop_of_short opMul, fun _ _ _ h => (binop_of_two opMul h).trans (finishBinop_eq _)⟩⟩

/-- Settles O22: `DIV` tests the divisor once two operands are there. -/
theorem divResult : Obligations.DivResult :=
  ⟨by decide, fun _ _ _ => ⟨divBinop_of_short opDiv, fun _ _ _ => divBinop_of_zero opDiv,
    fun _ _ _ h hz => (divBinop_of_ne_zero opDiv h hz).trans (finishBinop_eq _)⟩⟩

/-! ### The truncating division (43_arithmetic.md R146, R148) -/

theorem tmod_sign_cases (a b : Int) : a.tmod b = 0 ∨ (0 < a.tmod b ∧ 0 < a) ∨ (a.tmod b < 0 ∧ a < 0) := by
  have hpos : 0 ≤ a → 0 ≤ a.tmod b := Int.tmod_nonneg b
  have hneg : 0 ≤ -a → 0 ≤ -a.tmod b := Int.neg_tmod a b ▸ Int.tmod_nonneg b
  omega

theorem natAbs_tmod_lt (a : Int) {b : Int} (hb : b ≠ 0) : (a.tmod b).natAbs < b.natAbs :=
  Int.natAbs_tmod a b ▸ Nat.mod_lt _ (Int.natAbs_pos.mpr hb)

theorem opMod_eq_wrap16_tmod (n2 n1 : Value) : opMod n2 n1 = wrap16 ((s16 n2).tmod (s16 n1)) := by
  rw [opMod, Int.tmod_def, Int.mul_comm]

/-- A remainder is in the signed range, as its divisor is. -/
theorem s16_opMod (n2 : Value) {n1 : Value} (h : s16 n1 ≠ 0) : s16 (opMod n2 n1) = (s16 n2).tmod (s16 n1) := by
  have hlt := natAbs_tmod_lt (s16 n2) h
  have hlow := le_s16 n1
  have hhigh := s16_le n1
  rw [opMod_eq_wrap16_tmod]
  exact s16_wrap16_of_range (by omega) (by omega)

/-- A quotient is at most its dividend in magnitude, so the only one out of the signed range is 32768. -/
theorem s16_opDiv {n2 n1 : Value} (h : s16 n1 ≠ 0) (hover : ¬ (s16 n2 = -32768 ∧ s16 n1 = -1)) :
    s16 (opDiv n2 n1) = (s16 n2).tdiv (s16 n1) := by
  have hle := Int.natAbs_tdiv_le_natAbs (s16 n2) (s16 n1)
  have hlow := le_s16 n2
  have hhigh := s16_le n2
  refine s16_wrap16_of_range (by omega) (Int.not_lt.mp fun hq => hover ?_)
  have hquot : (s16 n2).tdiv (s16 n1) = 32768 := by omega
  have hlaw := Int.tdiv_mul_add_tmod (s16 n2) (s16 n1)
  have hlt := natAbs_tmod_lt (s16 n2) h
  rw [hquot] at hlaw
  omega

/-- Settles O23: the result is the remainder itself, whose sign and magnitude the integers give. -/
theorem modResult : Obligations.ModResult := by
  refine ⟨by decide, fun n2 n1 hz => ⟨opMod n2 n1, rfl, ?_⟩, fun a b s => ⟨divBinop_of_short opMod,
    fun n1 n2 below => divBinop_of_zero opMod, fun n1 n2 below h hz => ⟨opMod n2 n1, rfl, ?_⟩⟩⟩
  · rw [s16_opMod n2 hz]
    exact ⟨tmod_sign_cases _ _, natAbs_tmod_lt _ hz⟩
  · exact (divBinop_of_ne_zero opMod h hz).trans (finishBinop_eq _)

/-- Settles O25: within the signed range the law is that of the integers, and the one case outside is computed. -/
theorem quotientAndRemainderLaw : Obligations.QuotientAndRemainderLaw := by
  refine ⟨fun a b hb hover => ?_, fun a b ha hb => ?_⟩
  · rw [s16_opDiv hb hover, s16_opMod a hb, Int.tdiv_mul_add_tmod]
  · rw [opDiv, opMod, ha, hb]
    decide

/-! ### The comparison (43_arithmetic.md R147) -/

/-- Settles O24: `CMP` and `SUB` are one binary operation, and a difference in range has the sign of the order. -/
theorem cmpEqualsSub : Obligations.CmpEqualsSub := by
  refine ⟨by decide, fun a a' b b' s => rfl, fun a b s => binop_of_short opSub, fun a b s right left below h =>
    ⟨_, (binop_of_two opSub h).trans (finishBinop_eq _), rfl, rfl, rfl, fun hlow hhigh => ?_⟩⟩
  have hr : s16 (opSub left right) = s16 left - s16 right := s16_wrap16_of_range hlow hhigh
  refine ⟨fun heq => ⟨decide_eq_true ?_, if_pos ?_⟩,
    fun hgt => ⟨decide_eq_false ?_, (if_neg ?_).trans (decide_eq_true ?_)⟩,
    fun hlt => ⟨decide_eq_false ?_, (if_neg ?_).trans (decide_eq_false ?_)⟩⟩ <;> omega

end Sys2Proof.Proofs

/-! PROOFS. The statements of 44_branches.md: the branch (R160 to R162), the seven jumps (R163 to R169), the conditions after
`CMP` (R170). -/

namespace Sys2Proof.Proofs

open Sys2Proof Sys2Proof.Machine

/-! ### The branch (44_branches.md R160 to R162) -/

section

variable (c : Bool) (a : Value) {b : Byte} (s : State)

theorem branch_of_mode {m : BranchMode} (hm : branchMode b = some m) :
    branch c a b s = .next (if c = true then jumpTo (target m s.pc (s16 a)) s else advance s) := by
  rw [branch, hm]
  cases c <;> rfl

theorem branch_of_undefined (hm : branchMode b = none) : branch c a b s = .next (Faulted .illegalOperand s) := by
  rw [branch, hm]
  rfl

theorem branch_of_absolute (h : s8 b = 0) :
    branch c a b s = .next (if c = true then jumpTo (s16 a) s else advance s) :=
  branch_of_mode c a s (if_pos h)

theorem branch_of_forward (h : s8 b = 1) :
    branch c a b s = .next (if c = true then jumpTo (s.pc + s16 a) s else advance s) :=
  branch_of_mode c a s (m := .forward) (by simp [branchMode, h])

theorem branch_of_backward (h : s8 b = 2) :
    branch c a b s = .next (if c = true then jumpTo (s.pc - s16 a) s else advance s) :=
  branch_of_mode c a s (m := .backward) (by simp [branchMode, h])

theorem branch_of_no_mode (h0 : s8 b ≠ 0) (h1 : s8 b ≠ 1) (h2 : s8 b ≠ 2) :
    branch c a b s = .next (Faulted .illegalOperand s) :=
  branch_of_undefined c a s (by simp [branchMode, h0, h1, h2])

end

/-- An instruction that runs `BRANCH(c)` jumps when `c`: by the mode its `operand2` selects, if any. -/
theorem jumpsWhen_of_exec_eq_branch {c : Bool} {i : Value → Byte → Instr} {s : State}
    (hi : ∀ a b, exec (i a b) s = branch c a b s) : JumpsWhen c i s := by
  intro a b
  rw [hi]
  by_cases h0 : s8 b = 0
  · simp [branch_of_absolute c a s h0, h0, jumpTo, advance]
  by_cases h1 : s8 b = 1
  · simp [branch_of_forward c a s h1, h1, jumpTo, advance]
  by_cases h2 : s8 b = 2
  · simp [branch_of_backward c a s h2, h2, jumpTo, advance]
  · simp [branch_of_no_mode c a s h0 h1 h2, h0, h1, h2]

/-! ### The jumps (44_branches.md R163 to R169): each runs `BRANCH` on its own condition by definition -/

/-- Settles O26: `JMP` is `BRANCH(true)`. -/
theorem jmpAlwaysJumps : Obligations.JmpAlwaysJumps :=
  ⟨fun _ _ => rfl, fun a _ s => ⟨branch_of_absolute true a s, branch_of_forward true a s, branch_of_backward true a s,
    branch_of_no_mode true a s⟩⟩

/-- Settles O27: the conditions of `JE` and `JNE` are `zero` and its negation. -/
theorem jumpsOnZero : Obligations.JumpsOnZero :=
  ⟨fun _ _ => ⟨rfl, rfl⟩, fun _ =>
    ⟨jumpsWhen_of_exec_eq_branch fun _ _ => rfl, jumpsWhen_of_exec_eq_branch fun _ _ => rfl⟩⟩

/-- Settles O28: the conditions of `JG` and `JL` are `sign` and its negation, without `zero`. -/
theorem jumpsOnSign : Obligations.JumpsOnSign :=
  ⟨fun _ _ => ⟨rfl, rfl⟩, fun _ =>
    ⟨jumpsWhen_of_exec_eq_branch fun _ _ => rfl, jumpsWhen_of_exec_eq_branch fun _ _ => rfl⟩⟩

/-- Settles O29: `JLE` selects its target as the other jumps do (90_conflicts.md C1). -/
theorem jumpsOnSignOrZero : Obligations.JumpsOnSignOrZero :=
  ⟨fun _ _ => ⟨rfl, rfl⟩, fun _ =>
    ⟨jumpsWhen_of_exec_eq_branch fun _ _ => rfl, jumpsWhen_of_exec_eq_branch fun _ _ => rfl⟩⟩

/-! ### The conditions after a comparison (44_branches.md R170) -/

/-- Settles O30: the order of the operands decides both flags, but for `sign` on equal operands, which `CMP` keeps. -/
theorem conditionsAfterCompare : Obligations.ConditionsAfterCompare := by
  intro a b s t right left below hs hlow hhigh ht
  obtain ⟨-, -, -, hcmp⟩ := cmpEqualsSub
  obtain ⟨u, hu, -, -, -, hflags⟩ := hcmp a b s right left below hs
  obtain rfl : t = u := by injection ht.symm.trans hu
  obtain ⟨heq, hgt, hlt⟩ := hflags hlow hhigh
  simp only [State.condE, State.condNE, State.condGE, State.condLE, State.condG, State.condL]
  obtain h | h | h := lt_trichotomy (s16 left) (s16 right)
  · obtain ⟨hzero, hsign⟩ := hlt h
    simp [hzero, hsign, h, h.ne, h.le, h.not_ge]
  · obtain ⟨hzero, hsign⟩ := heq h
    simp [hzero, hsign, h]
  · obtain ⟨hzero, hsign⟩ := hgt h
    simp [hzero, hsign, h, h.ne', h.le, h.not_ge]

end Sys2Proof.Proofs

/-! PROOFS. The statements of 45_io.md: `STDIN` (R181, R182), `STDOUT` (R183, R184), the bytes of the output and its
flushing (R185), the decimal text and `ParseLine` (R180, R185). -/

namespace Sys2Proof.Proofs

open Sys2Proof Sys2Proof.Machine

/-! ### Delivery (45_io.md R181, 20_memory.md R60) -/

theorem deliver_eq_queueBehind (r : InResponse) (s : State) : deliver r s = queueBehind [r] s := rfl

theorem step_deliver (r : InResponse) {s t : State} (hw : s.waiting = false) (ht : step s = .next t) :
    step (deliver r s) = .next (deliver r t) := by
  obtain ⟨u, hu, hq⟩ := step_nextKeepsLater [r] (Bool.eq_false_iff.mp hw)
  obtain rfl : t = u := by injection ht.symm.trans hu
  exact hq

theorem waiting_deliver (r : InResponse) (s : State) : (deliver r s).waiting = false := by
  refine Bool.eq_false_iff.mpr fun hw => ?_
  obtain ⟨-, w, -, -, -, hin⟩ := (waiting_iff _).mp hw
  simp at hin

/-- Settles O50: delivery is queueing one response behind the others, which every step that does not wait commutes
with. -/
theorem deliveryTimeIsInvisible : Obligations.DeliveryTimeIsInvisible :=
  ⟨fun _ _ r hw ht => step_deliver r hw ht, fun s hw => ⟨step_of_waiting hw, fun r => waiting_deliver r s⟩,
    resetCore_input⟩

/-! ### `STDIN` (45_io.md R182) -/

section

variable (a : Value) (b : Byte) {s : State}

theorem exec_stdin_of_full (h : s.params.stackDepth ≤ s.stack.length) :
    exec (.stdin a b) s = .next (Faulted .stackOverflow s) :=
  if_pos ((stackFull_iff s).mpr h)

variable (hroom : s.stack.length < s.params.stackDepth)

include hroom

theorem exec_stdin_of_no_response (hin : s.input = []) : exec (.stdin a b) s = .next s :=
  exec_of_waitsAt ⟨⟨a, b, rfl⟩, (stackFull_false_iff s).mpr hroom, hin⟩

theorem exec_stdin_of_parseFail {rest : List InResponse} (hin : s.input = .parseFail :: rest) :
    exec (.stdin a b) s = .next (Faulted .inputParseFailure { s with input := rest }) := by
  rw [exec, execStdin, (stackFull_false_iff s).mpr hroom, hin]
  rfl

theorem exec_stdin_of_value {v : Value} {rest : List InResponse} (hin : s.input = .value v :: rest) :
    exec (.stdin a b) s =
      .next { s with stack := v :: s.stack, input := rest, pc := s.pc + 1, jumped := false } := by
  rw [exec, execStdin, (stackFull_false_iff s).mpr hroom, hin]
  rfl

end

/-- Settles O31: by the room on the stack, then by the response at the front. -/
theorem stdinTakesResponse : Obligations.StdinTakesResponse :=
  ⟨by decide, fun a b _ => ⟨fun hfull => exec_stdin_of_full a b hfull.ge, fun hroom =>
    ⟨exec_stdin_of_no_response a b hroom, fun _ => exec_stdin_of_parseFail a b hroom,
      fun _ _ => exec_stdin_of_value a b hroom⟩⟩⟩

/-! ### `STDOUT` (45_io.md R184) -/

section

variable {b : Byte}

theorem outMode_of_zero (h : s8 b = 0) : outMode b = some .decimal := if_pos h

theorem outMode_of_one (h : s8 b = 1) : outMode b = some .charNewline := by simp [outMode, h]

theorem outMode_of_two (h : s8 b = 2) : outMode b = some .rawByte := by simp [outMode, h]

theorem outMode_of_three (h : s8 b = 3) : outMode b = some .char := by simp [outMode, h]

theorem outMode_eq_none_iff_s8 : outMode b = none ↔ s8 b < 0 ∨ 3 < s8 b := by
  unfold outMode
  split_ifs <;> simp <;> omega

variable (a : Value) {s : State}

theorem exec_stdout_of_undefined (hm : outMode b = none) :
    exec (.stdout a b) s = .next (Faulted .illegalOperand s) := by
  rw [exec, execStdout, hm]
  rfl

variable {m : OutMode} (hm : outMode b = some m)

include hm

theorem exec_stdout_of_nil (hs : s.stack = []) : exec (.stdout a b) s = .next (Faulted .stackUnderflow s) := by
  rw [exec, execStdout, hm, hs]
  rfl

theorem exec_stdout_of_cons {v : Value} {rest : List Value} (hs : s.stack = v :: rest) :
    exec (.stdout a b) s = .next (advance (emit (outEvent m v) s)) := by
  rw [exec, execStdout, hm, hs]

/-- A `STDOUT` that does not end the run has emitted the event of its mode for some top. -/
theorem exists_output_of_exec_stdout {t : State} (ht : exec (.stdout a b) s = .next t)
    (hr : t.runState = .running) : ∃ v, t.output = s.output ++ [outEvent m v] := by
  cases hs : s.stack with
  | nil =>
    obtain rfl : t = Faulted .stackUnderflow s := by injection ht.symm.trans (exec_stdout_of_nil a hm hs)
    cases hr
  | cons v rest =>
    obtain rfl : t = advance (emit (outEvent m v) s) := by injection ht.symm.trans (exec_stdout_of_cons a hm hs)
    exact ⟨v, rfl⟩

end

/-- Settles O32: by the mode, then by whether the stack has a top. -/
theorem stdoutEmitsEvent : Obligations.StdoutEmitsEvent := by
  refine ⟨fun _ _ => rfl, fun a b s => ⟨fun hb => ?_, fun hlow hhigh hs => ?_, fun v rest hs => ?_⟩⟩
  · exact exec_stdout_of_undefined a (outMode_eq_none_iff_s8.mpr hb)
  · have hm : outMode b ≠ none := fun h => by have := outMode_eq_none_iff_s8.mp h; omega
    obtain ⟨m, hm⟩ := Option.ne_none_iff_exists'.mp hm
    exact exec_stdout_of_nil a hm hs
  · exact ⟨fun h => exec_stdout_of_cons a (outMode_of_zero h) hs, fun h => exec_stdout_of_cons a (outMode_of_one h) hs,
      fun h => exec_stdout_of_cons a (outMode_of_two h) hs, fun h => exec_stdout_of_cons a (outMode_of_three h) hs⟩

/-! ### The bytes of the output and its flushing (45_io.md R185) -/

theorem utf8_of_le {c : Byte} (h : c.toNat ≤ 0x7F) : utf8 c = [c] := if_pos h

/-- The two bytes of a character above 0x7F, as bit patterns. -/
theorem utf8_of_ge {c : Byte} (h : 0x80 ≤ c.toNat) :
    utf8 c = [0b110000#6 ++ c.extractLsb' 6 2, 0b10#2 ++ c.extractLsb' 0 6] := by
  have hlead : ∀ c : Byte, (0xC0 : Byte) ||| (c >>> 6) = 0b110000#6 ++ c.extractLsb' 6 2 := by decide
  have htrail : ∀ c : Byte, (0x80 : Byte) ||| (c &&& 0x3F) = 0b10#2 ++ c.extractLsb' 0 6 := by decide
  have hc : ¬ u8 c ≤ 0x7F := Nat.not_le.mpr h
  exact (if_neg hc).trans (congrArg₂ (fun x y => [x, y]) (hlead c) (htrail c))

theorem flushedEvents_append_of_flushes (es : List OutEvent) {e : OutEvent} (h : e.flushes = true) :
    flushedEvents (es ++ [e]) = es ++ [e] := by
  simp [flushedEvents, h]

theorem flushedEvents_append_of_not_flushes (es : List OutEvent) {e : OutEvent} (h : e.flushes = false) :
    flushedEvents (es ++ [e]) = flushedEvents es := by
  simp [flushedEvents, h]

theorem visibleBytes_of_terminated {s : State} {o : RunOutcome} (h : s.runState = .terminated o) :
    s.visibleBytes = outputBytes s.output := by
  rw [State.visibleBytes, h]

theorem visibleBytes_of_running {s : State} (h : s.runState = .running) :
    s.visibleBytes = outputBytes (flushedEvents s.output) := by
  rw [State.visibleBytes, h]

/-- Right after a `STDOUT` whose mode flushes, everything emitted is visible. -/
theorem visibleBytes_of_exec_stdout {a : Value} {b : Byte} {s t : State} {m : OutMode} (hm : outMode b = some m)
    (hflush : ∀ v, (outEvent m v).flushes = true) (ht : exec (.stdout a b) s = .next t)
    (hr : t.runState = .running) : t.visibleBytes = outputBytes t.output := by
  obtain ⟨v, hout⟩ := exists_output_of_exec_stdout a hm ht hr
  rw [visibleBytes_of_running hr, hout, flushedEvents_append_of_flushes _ (hflush v)]

/-- Settles O33: modes 2 and 3 are the ones whose events flush. -/
theorem outputBytesAndFlushing : Obligations.OutputBytesAndFlushing := by
  refine ⟨fun _ _ => ⟨rfl, rfl, rfl, rfl⟩, fun _ => ⟨rfl, rfl, utf8_of_le, utf8_of_ge⟩,
    fun es _ => flushedEvents_append_of_flushes es, fun es _ => flushedEvents_append_of_not_flushes es,
    fun _ _ => visibleBytes_of_terminated, fun a b s t _ hb ht hr => ?_⟩
  obtain h | h := hb
  · exact visibleBytes_of_exec_stdout (outMode_of_two h) (fun _ => rfl) ht hr
  · exact visibleBytes_of_exec_stdout (outMode_of_three h) (fun _ => rfl) ht hr

/-! ### The decimal text and the default `ParseLine` (45_io.md R180, R185; 92_eei_decisions.md D20) -/

/-- The bytes that `readDigits` takes for a digit. -/
def IsDigit (c : Byte) : Prop := 0x30 ≤ u8 c ∧ u8 c ≤ 0x39

theorem u8_digitByte {d : Nat} (h : d < 10) : u8 (digitByte d) = 0x30 + d := by
  rw [u8, digitByte, BitVec.toNat_ofNat]
  omega

theorem isDigit_digitByte {d : Nat} (h : d < 10) : IsDigit (digitByte d) := by
  rw [IsDigit, u8_digitByte h]
  omega

theorem isDigit_of_mem_decimalDigits {n m : Nat} {c : Byte} (h : c ∈ decimalDigits n m) : IsDigit c := by
  induction n generalizing m with
  | zero => cases h
  | succ n ih =>
    rw [decimalDigits] at h
    split at h
    case isTrue hm =>
      obtain rfl := List.mem_singleton.mp h
      exact isDigit_digitByte hm
    case isFalse =>
      obtain h | h := List.mem_append.mp h
      · exact ih h
      · obtain rfl := List.mem_singleton.mp h
        exact isDigit_digitByte (Nat.mod_lt m (by decide))

theorem IsDigit.ne_minus {c : Byte} (h : IsDigit c) : c ≠ 0x2D := by
  rintro rfl
  exact absurd h.1 (by decide)

theorem IsDigit.not_isBlank {c : Byte} (h : IsDigit c) : isBlank c = false := by
  obtain ⟨hlow, -⟩ := h
  have hspace : u8 c ≠ 0x20 := by omega
  have hcontrol : ¬ u8 c ≤ 0x0D := by omega
  simp [isBlank, hspace, hcontrol]

theorem decimalDigits_succ_ne_nil (n m : Nat) : decimalDigits (n + 1) m ≠ [] := by
  rw [decimalDigits]
  split <;> simp

theorem readDigits_append (t u : List Byte) (acc : Nat) :
    readDigits (t ++ u) acc = (readDigits t acc).bind (readDigits u) := by
  induction t generalizing acc with
  | nil => rfl
  | cons c t ih =>
    rw [List.cons_append, readDigits, readDigits]
    split
    · exact ih _
    · rfl

theorem readDigits_digitByte {d : Nat} (h : d < 10) (acc : Nat) :
    readDigits [digitByte d] acc = some (acc * 10 + d) := by
  have hdigit : 0x30 ≤ u8 (digitByte d) ∧ u8 (digitByte d) ≤ 0x39 := isDigit_digitByte h
  rw [readDigits, if_pos hdigit, u8_digitByte h, Nat.add_sub_cancel_left, readDigits]

/-- The digits of a number that has at most `n` of them are read back as the number. -/
theorem readDigits_decimalDigits {n m : Nat} (h : m < 10 ^ n) : readDigits (decimalDigits n m) 0 = some m := by
  induction n generalizing m with
  | zero =>
    obtain rfl : m = 0 := Nat.lt_one_iff.mp h
    rfl
  | succ n ih =>
    rw [decimalDigits]
    split
    case isTrue hm => rw [readDigits_digitByte hm, Nat.zero_mul, Nat.zero_add]
    case isFalse =>
      have hq : m / 10 < 10 ^ n := Nat.div_lt_of_lt_mul (by rwa [pow_succ'] at h)
      rw [readDigits_append, ih hq, Option.bind_some, readDigits_digitByte (Nat.mod_lt m (by decide)),
        Nat.div_add_mod']

theorem readNumber_of_ne_nil {t : List Byte} (h : t ≠ []) : readNumber t = readDigits t 0 := by
  cases t with
  | nil => exact absurd rfl h
  | cons => rfl

theorem readNumber_decimalDigits {n m : Nat} (h : m < 10 ^ (n + 1)) :
    readNumber (decimalDigits (n + 1) m) = some m :=
  (readNumber_of_ne_nil (decimalDigits_succ_ne_nil n m)).trans (readDigits_decimalDigits h)

theorem readSigned_minus_cons (t : List Byte) :
    readSigned (0x2D :: t) = (readNumber t).map fun n : Nat => -(n : Int) := by
  rw [readSigned, if_pos rfl]

theorem readSigned_of_minus_notMem {t : List Byte} (h : 0x2D ∉ t) :
    readSigned t = (readNumber t).map fun n : Nat => (n : Int) := by
  cases t with
  | nil => rfl
  | cons c t =>
    have hc : c ≠ 0x2D := fun hc => h (hc ▸ List.mem_cons_self)
    rw [readSigned, if_neg hc]

theorem readSigned_decimalText (v : Value) : readSigned (decimalText v) = some (s16 v) := by
  have hread : readNumber (decimalDigits 5 (s16 v).natAbs) = some (s16 v).natAbs := by
    have hlow := le_s16 v
    have hhigh := s16_le v
    exact readNumber_decimalDigits (n := 4) (by omega)
  rw [decimalText]
  split
  case isTrue hneg =>
    rw [readSigned_minus_cons, hread, Option.map_some, Int.ofNat_natAbs_of_nonpos hneg.le, neg_neg]
  case isFalse hpos =>
    have hminus : 0x2D ∉ decimalDigits 5 (s16 v).natAbs := fun h => (isDigit_of_mem_decimalDigits h).ne_minus rfl
    rw [readSigned_of_minus_notMem hminus, hread, Option.map_some, Int.natAbs_of_nonneg (not_lt.mp hpos)]

theorem not_isBlank_of_mem_decimalText {v : Value} {c : Byte} (h : c ∈ decimalText v) : isBlank c = false := by
  have hdigit : ∀ m, c ∈ decimalDigits 5 m → isBlank c = false := fun m hc =>
    (isDigit_of_mem_decimalDigits hc).not_isBlank
  rw [decimalText] at h
  split at h
  · obtain rfl | h := List.mem_cons.mp h
    · rfl
    · exact hdigit _ h
  · exact hdigit _ h

theorem dropWhile_isBlank_of_no_blank {t : List Byte} (h : ∀ c ∈ t, isBlank c = false) : t.dropWhile isBlank = t := by
  cases t with
  | nil => rfl
  | cons c t => exact List.dropWhile_cons_of_neg (Bool.eq_false_iff.mp (h c List.mem_cons_self))

theorem trimBlanks_append_newline {t : List Byte} (h : ∀ c ∈ t, isBlank c = false) :
    trimBlanks (t ++ [0x0A]) = t := by
  cases t with
  | nil => rfl
  | cons c t =>
    have hfront : (c :: t ++ [0x0A]).dropWhile isBlank = c :: t ++ [0x0A] :=
      List.dropWhile_cons_of_neg (Bool.eq_false_iff.mp (h c List.mem_cons_self))
    have hback : (c :: t ++ [0x0A]).reverse.dropWhile isBlank = (c :: t).reverse := by
      rw [List.reverse_append, List.reverse_singleton, List.singleton_append, List.dropWhile_cons_of_pos (by decide)]
      exact dropWhile_isBlank_of_no_blank fun d hd => h d (List.mem_reverse.mp hd)
    rw [trimBlanks, hfront, hback, List.reverse_reverse]

theorem parseLineDefault_dec (v : Value) : parseLineDefault (some (OutEvent.bytes (.dec v))) = .value v := by
  have htrim : trimBlanks (OutEvent.bytes (.dec v)) = decimalText v :=
    trimBlanks_append_newline fun _ => not_isBlank_of_mem_decimalText
  rw [parseLineDefault, htrim, readSigned_decimalText]
  exact (if_pos ⟨le_s16 v, s16_le v⟩).trans (congrArg InResponse.value (wrap16_s16 v))

/-- Settles O34: white space is trimmed, the sign taken off and the digits read, each for every value. -/
theorem decimalTextParsesBack : Obligations.DecimalTextParsesBack :=
  ⟨parseLineDefault_dec, by decide, by decide, by decide⟩

end Sys2Proof.Proofs

/-! PROOFS. The statements of 46_variables.md: `LOAD` (R190) and `STORE` (R191). -/

namespace Sys2Proof.Proofs

open Sys2Proof Sys2Proof.Machine

section

variable (a : Value) (b : Byte) {s : State}

/-! ### `LOAD` (46_variables.md R190) -/

theorem exec_load_of_unbound (h : Memory.read s.curVars a.toNat = none) :
    exec (.load a b) s = .next (Faulted .unknownVariable s) := by
  rw [exec, execLoad, varRead, u16, h]
  rfl

theorem exec_load_of_bound {v : Value} (h : Memory.read s.curVars a.toNat = some v) :
    exec (.load a b) s = pushAndAdvance v s := by
  rw [exec, execLoad, varRead, u16, h]

/-! ### `STORE` (46_variables.md R191) -/

theorem exec_store_of_nil (h : s.stack = []) : exec (.store a b) s = .next (Faulted .stackUnderflow s) := by
  rw [exec, execStore, h]
  rfl

theorem exec_store_of_cons {v : Value} {rest : List Value} (h : s.stack = v :: rest) :
    exec (.store a b) s = .next (advance (varWrite a v { s with stack := rest })) := by
  rw [exec, execStore, h]

end

/-! ### What a write to the current frame changes (10_state.md R28) -/

section

variable (slot v : Value) (s : State)

theorem read_curVars_varWrite (k : Nat) :
    Memory.read (varWrite slot v s).curVars k = if k = slot.toNat then some v else Memory.read s.curVars k := by
  rw [varWrite, curVars_setCurVars, Memory.read_write, u16]

theorem varWrite_keeps_all_but_vars :
    varWrite slot v s =
      { s with rootVars := (varWrite slot v s).rootVars, calls := (varWrite slot v s).calls } := by
  obtain ⟨-, hw⟩ | ⟨f, outer, -, hw⟩ := varWrite_cases slot v s <;> rw [hw]

variable {s}

theorem varWrite_calls_of_nil (h : s.calls = []) : (varWrite slot v s).calls = [] :=
  setCurVars_calls_nil _ s h

theorem varWrite_calls_of_cons {f : Frame} {outer : List Frame} (h : s.calls = f :: outer) :
    (varWrite slot v s).calls = { f with vars := Memory.write s.curVars (u16 slot) v } :: outer :=
  setCurVars_calls_cons _ s f outer h

theorem varWrite_rootVars_of_cons {f : Frame} {outer : List Frame} (h : s.calls = f :: outer) :
    (varWrite slot v s).rootVars = s.rootVars := by
  simp [varWrite, h]

end

/-! ### The statements -/

/-- Settles O35: an unbound slot ends `LOAD` before the push; of a bound one it is a push of the value. -/
theorem loadPushesVariable : Obligations.LoadPushesVariable := by
  refine ⟨fun _ _ => rfl, fun _ => rfl, fun a b s =>
    ⟨exec_load_of_unbound a b, fun v hv => ⟨fun hfull => ?_, fun hroom => ?_⟩⟩⟩
  · rw [exec_load_of_bound a b hv, pushAndAdvance_of_full v hfull.ge]
  · rw [exec_load_of_bound a b hv, pushAndAdvance_of_room v hroom]

/-- Settles O36: `STORE` is a write of the popped value to the current frame, which keeps every other slot, every other
frame and the rest of the state. -/
theorem storeBindsVariable : Obligations.StoreBindsVariable := by
  refine ⟨fun _ _ => rfl, fun a b s => ⟨exec_store_of_nil a b, fun v rest hs =>
    ⟨_, exec_store_of_cons a b hs, fun slot => ?_, fun hc => ?_, fun f outer hc => ?_, ?_⟩⟩⟩
  · exact read_curVars_varWrite a v { s with stack := rest } slot
  · exact varWrite_calls_of_nil a v hc
  · exact ⟨varWrite_rootVars_of_cons a v hc, _, varWrite_calls_of_cons a v hc⟩
  · exact congrArg advance (varWrite_keeps_all_but_vars a v { s with stack := rest })

end Sys2Proof.Proofs

/-! PROOFS. The statements of 47_call_return.md: `CALL` (R200), `RETURN` (R201) and the two together (R202). -/

namespace Sys2Proof.Proofs

open Sys2Proof Sys2Proof.Machine

/-! ### `CALL` (47_call_return.md R200) -/

/-- The modes with a meaning and their targets, by the number in `operand2` (44_branches.md R160, R161). -/
theorem exists_branchMode_of_s8 {b : Byte} (h : s8 b = 0 ∨ s8 b = 1 ∨ s8 b = 2) :
    ∃ m, branchMode b = some m ∧
      ∀ p x : Int, target m p x = if s8 b = 0 then x else if s8 b = 1 then p + x else p - x := by
  obtain h | h | h := h
  · exact ⟨.absolute, by simp [branchMode, h], by simp [target, h]⟩
  · exact ⟨.forward, by simp [branchMode, h], by simp [target, h]⟩
  · exact ⟨.backward, by simp [branchMode, h], by simp [target, h]⟩

section

variable (a : Value) {b : Byte} {s : State}

theorem exec_call_of_undefined (hm : branchMode b = none) :
    exec (.call a b) s = .next (Faulted .illegalOperand s) := by
  rw [exec, execCall, hm]
  rfl

variable {m : BranchMode} (hm : branchMode b = some m)

include hm

theorem exec_call_of_full (h : s.params.frameDepth ≤ s.calls.length + 1) :
    exec (.call a b) s = .next (Faulted .callStackOverflow s) := by
  rw [exec, execCall, hm]
  exact if_pos ((framesFull_iff s).mpr h)

theorem exec_call_of_room (h : s.calls.length + 1 < s.params.frameDepth) :
    exec (.call a b) s = .next
      { s with
        calls := { vars := [], ra := s.pc } :: s.calls
        pc := target m s.pc (s16 a)
        jumped := true } := by
  rw [exec, execCall, hm]
  exact if_neg (Bool.eq_false_iff.mp ((framesFull_false_iff s).mpr h))

end

/-- A `CALL` that jumps has pushed its frame: its two faults report no jump (40_execution_cycle.md R104). -/
theorem calls_of_exec_call_jumped {a : Value} {b : Byte} {s t : State} (h : exec (.call a b) s = .next t)
    (hj : t.jumped = true) : t.calls = { vars := [], ra := s.pc } :: s.calls ∧ t.rootVars = s.rootVars := by
  cases hm : branchMode b with
  | none =>
    obtain rfl : t = Faulted .illegalOperand s := by injection h.symm.trans (exec_call_of_undefined a hm)
    cases hj
  | some m =>
    obtain hfull | hroom := le_or_gt s.params.frameDepth (s.calls.length + 1)
    · obtain rfl : t = Faulted .callStackOverflow s := by injection h.symm.trans (exec_call_of_full a hm hfull)
      cases hj
    · injection h.symm.trans (exec_call_of_room a hm hroom) with ht
      exact ht ▸ ⟨rfl, rfl⟩

/-! ### `RETURN` (47_call_return.md R201) -/

theorem exec_ret_of_nil (a : Value) (b : Byte) {s : State} (h : s.calls = []) :
    exec (.ret a b) s = .next (Faulted .callStackUnderflow s) :=
  execReturn_of_nil a b h

theorem exec_ret_of_cons (a : Value) (b : Byte) {s : State} {f : Frame} {rest : List Frame} (h : s.calls = f :: rest) :
    exec (.ret a b) s = .next { s with calls := rest, pc := f.ra + 1, jumped := false } :=
  execReturn_of_cons a b h

/-! ### The statements -/

/-- Settles O37: by the mode, then by the room on the frame stack. -/
theorem callPushesFrame : Obligations.CallPushesFrame := by
  refine ⟨fun _ _ => rfl, fun a b s => ⟨fun h0 h1 h2 => ?_, fun hb => ?_⟩⟩
  · exact exec_call_of_undefined a (by simp [branchMode, h0, h1, h2])
  · obtain ⟨m, hm, htarget⟩ := exists_branchMode_of_s8 hb
    refine ⟨fun hfull => exec_call_of_full a hm hfull.ge, fun hroom => ?_⟩
    rw [exec_call_of_room a hm hroom, htarget]

/-- Settles O38: by whether a `CALL` has made the current frame. -/
theorem returnDropsFrame : Obligations.ReturnDropsFrame :=
  ⟨by decide, fun a b _ => ⟨exec_ret_of_nil a b, fun _ _ => exec_ret_of_cons a b⟩⟩

/-- Settles O39: the frame a `CALL` pushes holds its own address, and `RETURN` reads nothing else of the state. -/
theorem returnResumesAfterCall : Obligations.ReturnResumesAfterCall := by
  intro a a' b b' s t u m f outer hcall hj ht hu hroot
  obtain ⟨hcalls, hvars⟩ := calls_of_exec_call_jumped hcall hj
  obtain ⟨rfl, rfl⟩ : { vars := [], ra := s.pc } = f ∧ s.calls = outer := by simpa using hcalls.symm.trans ht
  exact ⟨rfl, hvars, by rw [exec_ret_of_cons a' b' hu, ← hvars, ← hroot]⟩

end Sys2Proof.Proofs

/-! PROOFS. The statements of 60_exceptions.md: the fault table (R211, R214, R215), the record (R212) and the precision
of faults (R213). -/

namespace Sys2Proof.Proofs

open Sys2Proof Sys2Proof.Machine

/-! ### The last step of a run (60_exceptions.md R213) -/

/-- The states in which a step from the running state `s` ends the run. -/
inductive EndedFrom (s : State) : State → Prop where
  | halted (v : Value) : EndedFrom s (haltWith v s)
  | fault (k : FaultKind) (hk : k ≠ .inputParseFailure) : EndedFrom s (raiseFault k s)
  | badInput (rest : List InResponse) (hin : s.input = .parseFail :: rest) :
      EndedFrom s (raiseFault .inputParseFailure { s with input := rest })

section

variable {s t : State} {o : RunOutcome} (hr : s.runState = .running)

include hr

theorem effect_endedFrom {i : Instr} (h : Effect i s t) (ht : t.runState = .terminated o) : EndedFrom s t := by
  cases h with
  | fault k _ hk => exact .fault k hk
  | badInput a b rest _ hin => exact .badInput rest hin
  | halted a b v => exact .halted v
  | computed n1 n2 r below => simp [arithState_eq, hr] at ht
  | stored => simp [varWrite, hr] at ht
  | _ => simp [hr] at ht

theorem step_endedFrom (h : step s = .next t) (ht : t.runState = .terminated o) : EndedFrom s t := by
  obtain ⟨o', ho', -⟩ | ⟨-, -, rfl⟩ | ⟨w, -, -, hx⟩ := step_next s t h
  · simp [hr] at ho'
  · exact .fault .pcOutOfRange (by simp)
  · exact effect_endedFrom hr (exec_effect _ s t hx) ht

/-- The record of a faulting step (60_exceptions.md R212): only a fetch outside the program leaves it without a word,
and with one the kind is of the row of its instruction. -/
theorem step_faultRecord {k : FaultKind} {a : Int} {w : Option Word} (h : step s = .next t)
    (ht : t.runState = .terminated (.fault k a w)) :
    a = s.pc ∧ w = s.fetchWord ∧
      ((s.fetchWord = none ∧ k = .pcOutOfRange) ∨ ∃ v, s.fetchWord = some v ∧ k ∈ (decode v).mayRaise) := by
  obtain ⟨_, _, _, _, -, -, ho⟩ | ⟨k', v, hf, hk, ho⟩ | ⟨hf, ho⟩ := runEndsOnceInThreeWays.2 s t _ hr h ht
  · cases ho
  · cases ho; exact ⟨rfl, hf.symm, .inr ⟨v, hf, hk⟩⟩
  · cases ho; exact ⟨rfl, hf.symm, .inl ⟨hf, rfl⟩⟩

end

/-- Settles O42: of the ways a run ends, the two faults, of which one takes the response at the front. -/
theorem faultsArePrecise : Obligations.FaultsArePrecise := by
  intro s t k a w hr h ht
  cases step_endedFrom hr h ht with
  | halted v => cases ht
  | fault k' hk =>
    cases ht
    exact ⟨rfl, by rw [if_neg hk]; rfl⟩
  | badInput rest hin =>
    cases ht
    exact ⟨rfl, hin⟩

/-- Settles O43: the status fields are read from the record. -/
theorem faultRecordFields : Obligations.FaultRecordFields := by
  refine ⟨by decide, fun s t k a w hr h ht => ?_⟩
  obtain ⟨rfl, rfl, hword⟩ := step_faultRecord hr h ht
  refine ⟨rfl, rfl, by rw [State.statusRunstate, ht], by rw [State.statusFaultKind, ht],
    by rw [State.statusFaultAddr, ht], by rw [State.statusResult, ht], fun v hv => ?_, fun hv => ?_⟩
  · simp [State.statusFaultInstrValid, State.statusFaultInstr, State.faultInstruction, ht, hv]
  · have hk : k = .pcOutOfRange := by simpa [hv] using hword
    simp [State.statusFaultInstrValid, State.statusFaultInstr, ht, hv, hk]

/-! ### Which fault an instruction raises (60_exceptions.md R211, R214, R215) -/

/-- Settles O45: the faults among the effects of an instruction are those of its row. -/
theorem faultsOfEachInstruction : Obligations.FaultsOfEachInstruction := by
  intro i s t k a w hr h ht
  obtain hsame | ⟨v, hv⟩ | ⟨k', hk, hfault⟩ := effect_runState (exec_effect i s t h)
  · simp [hsame, hr] at ht
  · simp [hv] at ht
  · obtain ⟨rfl, -, -⟩ : k' = k ∧ _ := by simpa [hfault] using ht
    exact hk

/-- The causes an instruction can meet are those of its row of R215, which lists them in the order of R214. -/
theorem firstFault_eq_find_mayRaise (i : Instr) (s : State) : firstFault i s = i.mayRaise.find? (faultCause i s) := by
  cases i <;> rfl

theorem find?_cons_eq_ite {α : Type} (p : α → Bool) (x : α) (l : List α) :
    (x :: l).find? p = if p x = true then some x else l.find? p := by
  cases h : p x <;> simp [h]

/-- The fault a run state records. -/
def faultKind : RunState → Option FaultKind
  | .terminated (.fault k _ _) => some k
  | _ => none

/-- The fault an instruction that answers `r` has raised. -/
def raised : Result → Option FaultKind
  | .next t => faultKind t.runState
  | _ => none

theorem s16_eq_zero (v : Value) : s16 v = 0 ↔ v = 0 := by
  rw [s16, ← BitVec.toInt_zero (w := 16), BitVec.toInt_inj]; rfl

theorem exists_stack_of_two_le {l : List Value} (h : 2 ≤ l.length) : ∃ n1 n2 below, l = n1 :: n2 :: below := by
  match l, h with
  | n1 :: n2 :: below, _ => exact ⟨n1, n2, below, rfl⟩

@[simp] theorem raised_Faulted (k : FaultKind) (s : State) : raised (.next (Faulted k s)) = some k := rfl

theorem raised_of_running {t : State} (h : t.runState = .running) : raised (.next t) = none := by
  rw [raised, h]; rfl

section

variable {s : State} (hr : s.runState = .running)

include hr

/-! #### The operations that instructions share -/

theorem raised_pushAndAdvance (v : Value) :
    raised (pushAndAdvance v s) = if s.params.stackDepth ≤ s.stack.length then some .stackOverflow else none := by
  split
  case isTrue hfull => rw [pushAndAdvance_of_full v hfull, raised_Faulted]
  case isFalse hroom => rw [pushAndAdvance_of_room v (Nat.lt_of_not_le hroom)]; exact raised_of_running hr

theorem raised_branch (c : Bool) (a : Value) (b : Byte) :
    raised (branch c a b s) = if branchModeLegal b = false then some .illegalOperand else none := by
  cases hm : branchMode b with
  | none => rw [branch_of_undefined c a s hm, raised_Faulted, if_pos ((branchMode_eq_none b).mp hm)]
  | some m =>
    rw [branch_of_mode c a s hm, if_neg (mt (branchMode_eq_none b).mpr (by simp [hm]))]
    cases c <;> exact raised_of_running hr

theorem raised_finishBinop (r : Value) (below : List Value) : raised (finishBinop r below s) = none := by
  rw [finishBinop_eq]; exact raised_of_running hr

theorem raised_binop (op : Value → Value → Value) :
    raised (binop op s) = if s.stack.length < 2 then some .stackUnderflow else none := by
  split
  case isTrue hshort => rw [binop_of_short op hshort, raised_Faulted]
  case isFalse htwo =>
    obtain ⟨n1, n2, below, hs⟩ := exists_stack_of_two_le (Nat.le_of_not_lt htwo)
    rw [binop_of_two op hs, raised_finishBinop hr]

theorem raised_divBinop (op : Value → Value → Value) :
    raised (divBinop op s) =
      if s.stack.length < 2 then some .stackUnderflow
      else if s.stack.head? = some 0 then some .arithmeticFault else none := by
  split
  case isTrue hshort => rw [divBinop_of_short op hshort, raised_Faulted]
  case isFalse htwo =>
    obtain ⟨n1, n2, below, hs⟩ := exists_stack_of_two_le (Nat.le_of_not_lt htwo)
    have hhead : s.stack.head? = some 0 ↔ s16 n1 = 0 := by rw [s16_eq_zero, hs, List.head?_cons, Option.some_inj]
    split
    case isTrue hz => rw [divBinop_of_zero op hs (hhead.mp hz), raised_Faulted]
    case isFalse hz => rw [divBinop_of_ne_zero op hs (mt hhead.mpr hz), raised_finishBinop hr]

/-! #### The instructions with two tests of their own -/

theorem raised_exec_stdin (a : Value) (b : Byte) : raised (exec (.stdin a b) s) =
    if s.params.stackDepth ≤ s.stack.length then some .stackOverflow
    else if s.input.head? = some .parseFail then some .inputParseFailure else none := by
  split
  case isTrue hfull => rw [exec_stdin_of_full a b hfull, raised_Faulted]
  case isFalse hroom =>
    replace hroom := Nat.lt_of_not_le hroom
    match hin : s.input with
    | [] => rw [exec_stdin_of_no_response a b hroom hin]; exact raised_of_running hr
    | .parseFail :: rest => rw [exec_stdin_of_parseFail a b hroom hin]; rfl
    | .value v :: rest => rw [exec_stdin_of_value a b hroom hin]; exact raised_of_running hr

theorem raised_exec_stdout (a : Value) (b : Byte) : raised (exec (.stdout a b) s) =
    if outModeLegal b = false then some .illegalOperand
    else if s.stack.length < 1 then some .stackUnderflow else none := by
  cases hm : outMode b with
  | none => rw [exec_stdout_of_undefined a hm, raised_Faulted, if_pos ((outMode_eq_none b).mp hm)]
  | some m =>
    rw [if_neg (mt (outMode_eq_none b).mpr (by simp [hm]))]
    cases hs : s.stack with
    | nil => rw [exec_stdout_of_nil a hm hs]; rfl
    | cons v rest => rw [exec_stdout_of_cons a hm hs]; exact raised_of_running hr

theorem raised_exec_call (a : Value) (b : Byte) : raised (exec (.call a b) s) =
    if branchModeLegal b = false then some .illegalOperand
    else if s.params.frameDepth ≤ s.calls.length + 1 then some .callStackOverflow else none := by
  cases hm : branchMode b with
  | none => rw [exec_call_of_undefined a hm, raised_Faulted, if_pos ((branchMode_eq_none b).mp hm)]
  | some m =>
    rw [if_neg (mt (branchMode_eq_none b).mpr (by simp [hm]))]
    split
    case isTrue hfull => rw [exec_call_of_full a hm hfull, raised_Faulted]
    case isFalse hroom => rw [exec_call_of_room a hm (Nat.lt_of_not_le hroom)]; exact raised_of_running hr

/-- 60_exceptions.md R211 and R214: an instruction raises the earliest cause present, and no fault where none is. -/
theorem raised_exec (i : Instr) : raised (exec i s) = firstFault i s := by
  rw [firstFault_eq_find_mayRaise]
  cases i with
  | halt a b | ilg a b => rfl
  | len a b | push a b =>
    exact (raised_pushAndAdvance hr _).trans (by simp [Instr.mayRaise, faultCause, Instr.pushes])
  | pop a b =>
    cases hs : s.stack with
    | nil => simp [exec_pop_of_nil, Instr.mayRaise, faultCause, Instr.needs, hs]
    | cons v rest => simp [exec_pop_of_cons a b hs, raised_of_running, hr, Instr.mayRaise, faultCause, Instr.needs, hs]
  | store a b =>
    cases hs : s.stack with
    | nil => simp [exec_store_of_nil, Instr.mayRaise, faultCause, Instr.needs, hs]
    | cons v rest =>
      simp [exec_store_of_cons a b hs, raised_of_running, varWrite, hr, Instr.mayRaise, faultCause, Instr.needs, hs]
  | dup a b =>
    cases hs : s.stack with
    | nil => simp [exec_dup_of_nil, Instr.mayRaise, faultCause, Instr.needs, hs]
    | cons v rest =>
      simp [exec_dup_of_cons a b hs, raised_pushAndAdvance hr, find?_cons_eq_ite, Instr.mayRaise, faultCause,
        Instr.needs, Instr.pushes, hs]
  | add a b | sub a b | mul a b | cmp a b =>
    exact (raised_binop hr _).trans (by simp [Instr.mayRaise, faultCause, Instr.needs])
  | div a b | mod a b =>
    exact (raised_divBinop hr _).trans (by simp [find?_cons_eq_ite, Instr.mayRaise, faultCause, Instr.needs])
  | jmp a b | je a b | jne a b | jg a b | jl a b | jge a b | jle a b =>
    exact (raised_branch hr _ a b).trans (by simp [Instr.mayRaise, faultCause, Instr.modeUndefined])
  | stdin a b =>
    rw [raised_exec_stdin hr]
    simp [find?_cons_eq_ite, Instr.mayRaise, faultCause, Instr.pushes]
  | stdout a b =>
    rw [raised_exec_stdout hr]
    simp [find?_cons_eq_ite, Instr.mayRaise, faultCause, Instr.modeUndefined, Instr.needs]
  | load a b =>
    cases hv : Memory.read s.curVars a.toNat with
    | none => simp [exec_load_of_unbound a b hv, Instr.mayRaise, faultCause, hv]
    | some v =>
      simp [exec_load_of_bound a b hv, raised_pushAndAdvance hr, find?_cons_eq_ite, Instr.mayRaise, faultCause,
        Instr.pushes, hv]
  | call a b =>
    rw [raised_exec_call hr]
    simp [find?_cons_eq_ite, Instr.mayRaise, faultCause, Instr.modeUndefined]
  | ret a b =>
    cases hc : s.calls with
    | nil => simp [exec_ret_of_nil a b hc, Instr.mayRaise, faultCause, hc]
    | cons f rest => simp [exec_ret_of_cons a b hc, raised_of_running, hr, Instr.mayRaise, faultCause, hc]

theorem runState_of_firstFault {i : Instr} {t : State} {k : FaultKind} (h : exec i s = .next t)
    (hk : firstFault i s = some k) : t.runState = .terminated (.fault k s.pc s.fetchWord) := by
  rw [← raised_exec hr, h] at hk
  obtain ht | ⟨v, ht⟩ | ⟨k', -, ht⟩ := effect_runState (exec_effect i s t h)
  · simp [raised, ht, hr, faultKind] at hk
  · simp [raised, ht, faultKind] at hk
  · obtain rfl : k' = k := by simpa [raised, ht, faultKind] using hk
    exact ht

end

/-- Settles O44: each instruction tests its causes in the order of R214 (`raised_exec`). -/
theorem earliestCauseIsReported : Obligations.EarliestCauseIsReported := by
  refine ⟨rfl, fun i s t hr h => ?_, fun s hr hf => ⟨_, step_of_no_fetch hr hf, rfl⟩⟩
  split
  case h_1 k hk => exact runState_of_firstFault hr h hk
  case h_2 hnone =>
    intro k a w ht
    simp [← raised_exec hr, h, raised, ht, faultKind] at hnone

/-! ### The record of a run that has ended (60_exceptions.md R212) -/

theorem pcOutOfRange_notMem_mayRaise (i : Instr) : .pcOutOfRange ∉ i.mayRaise := by
  cases i <;> simp [Instr.mayRaise]

/-- `PcOutOfRange` is the fault without a word, and the loader's fault is no step's (60_exceptions.md R211, R212). -/
theorem step_faultKind {s t : State} {k : FaultKind} {a : Int} {w : Option Word} (hr : s.runState = .running)
    (h : step s = .next t) (ht : t.runState = .terminated (.fault k a w)) :
    (s.fetchWord = none ↔ k = .pcOutOfRange) ∧ k ≠ .misalignedBinary := by
  obtain ⟨-, -, ⟨hf, rfl⟩ | ⟨v, hf, hk⟩⟩ := step_faultRecord hr h ht
  · exact ⟨iff_of_true hf rfl, by simp⟩
  · exact ⟨iff_of_false (by simp [hf]) fun e => pcOutOfRange_notMem_mayRaise _ (e ▸ hk),
      fun e => misalignedBinary_notMem_mayRaise _ (e ▸ hk)⟩

/-- Settles O57: each way a run ends writes the record from the state it leaves, and its kind tells whether a word was
fetched. -/
theorem stepKeepsRecordSound : Obligations.StepKeepsRecordSound := by
  intro s t hs h
  cases hr : s.runState with
  | terminated o =>
    obtain rfl : s = t := by injection (step_of_terminated hr).symm.trans h
    exact hs
  | running =>
    cases ht : t.runState with
    | running => simp [State.RecordSound, ht]
    | terminated o =>
      cases step_endedFrom hr h ht with
      | halted v => exact rfl
      | fault k => exact ⟨rfl, rfl, rfl, step_faultKind hr h rfl⟩
      | badInput rest =>
        have hkind := step_faultKind hr h rfl
        exact ⟨rfl, rfl, rfl, hkind⟩

end Sys2Proof.Proofs

/-! PROOFS. The statements of 70_reset_and_hazards.md: the first instruction after reset (R244). -/

namespace Sys2Proof.Proofs

open Sys2Proof Sys2Proof.Machine

theorem fetchWord_resetCore {s : State} {w : Word} {rest : List Word} (h : s.program = w :: rest) :
    (resetCore s).fetchWord = some w := by
  rw [fetchWord_of_nonneg (by simp), resetCore_program, h]
  rfl

/-- On an empty stack a missing element is the first cause: `ILG` needs none, and the mode has a meaning. -/
theorem firstFault_of_nil {i : Instr} {s : State} (hs : s.stack = []) (hneeds : 1 ≤ i.needs)
    (hmode : i.modeUndefined = false) : firstFault i s = some .stackUnderflow := by
  have hunder : faultCause i s .stackUnderflow = true := by
    rw [faultCause, hs]
    exact decide_eq_true hneeds
  have hopcode : faultCause i s .illegalOpcode = false := by
    cases i with
    | ilg a b => cases hneeds
    | _ => rfl
  have hoperand : faultCause i s .illegalOperand = false := hmode
  simp [firstFault, faultPriority, hopcode, hoperand, hunder]

section

variable {i : Value → Byte → Instr} {a : Value} {b : Byte} {s t : State} (hb : s8 b = 0 ∨ s8 b = 1 ∨ s8 b = 2)
  (h : exec (i a b) s = .next t)

include hb h

theorem jumped_of_jumpsWhen_true (hj : JumpsWhen true i s) : t.jumped = true := by
  rw [hj a b, if_pos hb, if_pos rfl] at h
  injection h with h
  rw [← h]

theorem eq_advance_of_jumpsWhen_false (hj : JumpsWhen false i s) : t = advance s := by
  rw [hj a b, if_pos hb, if_neg (by simp)] at h
  injection h with h
  exact h.symm

end

/-- Settles O59: after reset the stack, the variables and the frames above the root one are empty, and both flags are
0. -/
theorem firstInstructionAfterReset : Obligations.FirstInstructionAfterReset := by
  rintro s i w rest hp rfl
  have hf := fetchWord_resetCore hp
  obtain ⟨t, ht⟩ := exists_next_exec (decode w) (resetCore s)
  have hfault {k} (hk : firstFault (decode w) (resetCore s) = some k) :
      t.runState = .terminated (.fault k 0 (some w)) :=
    hf ▸ runState_of_firstFault (resetCore_runState s) ht hk
  obtain ⟨hje, hjne⟩ := jumpsOnZero.2 (resetCore s)
  obtain ⟨hjg, hjl⟩ := jumpsOnSign.2 (resetCore s)
  obtain ⟨hjge, hjle⟩ := jumpsOnSignOrZero.2 (resetCore s)
  refine ⟨t, (step_of_fetch (resetCore_runState s) hf).trans ht, fun hneeds hmode => ?_, ?_, ?_, fun a b hb hi => ?_,
    fun a b hb hi => ?_⟩
  · exact hfault (firstFault_of_nil (resetCore_stack s) hneeds hmode)
  · rintro ⟨a, b, hi⟩
    exact hfault (by rw [hi]; rfl)
  · rintro ⟨a, b, hi⟩
    exact hfault (by rw [hi]; rfl)
  · obtain hi | hi | hi := hi <;> rw [hi] at ht
    · exact jumped_of_jumpsWhen_true hb ht hjne
    · exact jumped_of_jumpsWhen_true hb ht hjl
    · exact jumped_of_jumpsWhen_true hb ht hjle
  · have hadvance : t = advance (resetCore s) := by
      obtain hi | hi | hi := hi <;> rw [hi] at ht
      · exact eq_advance_of_jumpsWhen_false hb ht hje
      · exact eq_advance_of_jumpsWhen_false hb ht hjg
      · exact eq_advance_of_jumpsWhen_false hb ht hjge
    exact hadvance ▸ ⟨rfl, rfl, rfl⟩

end Sys2Proof.Proofs
